-- ==== Sys2Proof/Word.lean ====
section
/-! DEFINITION. The words of LMC's ports and the binary64 type (00_scope.md R11, R14, R15; 20_memory.md R52). -/

namespace Sys2Proof

/-- One 64-bit word of the command port (R52, R65); bit 0 is the least significant bit (R14). -/
abbrev W64 := BitVec 64

/-- An IEEE 754 binary64 value, held as its interchange encoding (R11, R15): bit 63 is the sign, bits 62:52
are the biased exponent, bits 51:0 the fraction. `F64.bits` is the spec's `bits(a)`, the constructor its
`f64_of_bits(w)`. Every bit pattern is a value, so that a word which only passes through (`PANW`) keeps its bits. -/
structure F64 where
  bits : W64
deriving DecidableEq, Repr, Inhabited

/-- The sign bit `a[63]`. -/
def F64.sign (a : F64) : Bool := a.bits.getLsbD 63

/-- The biased exponent field `a[62:52]`. -/
def F64.expo (a : F64) : Nat := (a.bits.extractLsb' 52 11).toNat

/-- The fraction field `a[51:0]`. -/
def F64.frac (a : F64) : Nat := (a.bits.extractLsb' 0 52).toNat

/-- Bits 62:0, the encoding without its sign, as a number. -/
def F64.mag (a : F64) : Nat := (a.bits.extractLsb' 0 63).toNat

end Sys2Proof
end

