-- ==== Sys2Proof/Machine/Compare.lean ====
section
/-! DEFINITION. The binary64 predicates and comparisons of 00_scope.md R15, on the bits of the interchange encoding. -/

namespace Sys2Proof.Machine

/-- `isfinite(a)`: the exponent field is not all ones (R15). -/
def isFinite (a : F64) : Bool := a.expo != 2047

/-- NaN: exponent all ones and a fraction that is not zero (R15). -/
def isNaN (a : F64) : Bool := a.expo == 2047 && a.frac != 0

/-- `+Inf` or `-Inf` (R15). -/
def isInf (a : F64) : Bool := a.expo == 2047 && a.frac == 0

/-- A number whose order is the IEEE order of the value: `-0.0` and `+0.0` both give 0, and each infinity lies
beyond every finite value of its sign. It says nothing about NaN, which the comparisons exclude first. -/
def orderKey (a : F64) : Int := if a.sign then -(a.mag : Int) else (a.mag : Int)

/-- `a < b`: false when either side is NaN (R15). -/
def fLt (a b : F64) : Bool := !isNaN a && !isNaN b && decide (orderKey a < orderKey b)

/-- `a <= b`: false when either side is NaN (R15). -/
def fLe (a b : F64) : Bool := !isNaN a && !isNaN b && decide (orderKey a ≤ orderKey b)

/-- `a > b` (R15). -/
def fGt (a b : F64) : Bool := fLt b a

/-- `a >= b` (R15). -/
def fGe (a b : F64) : Bool := fLe b a

/-- `a = b` as IEEE compares it: `-0.0 = +0.0`, and NaN equals nothing (R15). -/
def fEq (a b : F64) : Bool := !isNaN a && !isNaN b && orderKey a == orderKey b

/-- `|a|`: the sign bit cleared (R15). -/
def fAbs (a : F64) : F64 := ⟨a.bits &&& 0x7FFFFFFFFFFFFFFF⟩

/-- The sign bit turned round. -/
def fNeg (a : F64) : F64 := ⟨a.bits ^^^ 0x8000000000000000⟩

end Sys2Proof.Machine
end

