-- ==== Sys2Proof/Config.lean ====
section
/-! DEFINITION. What is fixed for the machine: the constants of 00_scope.md R9 and R10, the OPEN parameters of R12
(`COEF`, `LOG10`, `POW10`) and the one free value of the arithmetic (the bits of a NaN result). -/

namespace Sys2Proof

/-- The two sliding-window integrators (10_state.md R27): `w = 0`, the 400 ms window, and `w = 1`, the 3000 ms window. -/
inductive Win where
  /-- `w = 0`: 400 ms, feeds M and I. -/
  | momentary
  /-- `w = 1`: 3000 ms, feeds S and LRA. -/
  | shortTerm
deriving DecidableEq, Repr

/-- The coefficients of one filter stage (R12, R24). -/
structure Stage where
  b0 : F64
  b1 : F64
  b2 : F64
  a0 : F64
  a1 : F64
  a2 : F64
deriving DecidableEq, Repr, Inhabited

/-- The four binary64 operations of R15. -/
inductive ArithOp where
  | add
  | sub
  | mul
  | div
deriving DecidableEq, Repr

namespace Config

/-- `+0.0`. -/
def zero : F64 := ⟨0x0000000000000000⟩
/-- `1.0`. -/
def one : F64 := ⟨0x3FF0000000000000⟩
/-- `10.0`, the factor of `Loud` and the divisor of `EnergyRep` (R120, R123). -/
def ten : F64 := ⟨0x4024000000000000⟩
/-- `20.0`, the factor of `PeakDb` (R147). -/
def twenty : F64 := ⟨0x4034000000000000⟩
/-- `+Inf`. -/
def posInf : F64 := ⟨0x7FF0000000000000⟩
/-- `-Inf`. -/
def negInf : F64 := ⟨0xFFF0000000000000⟩

/-- `BLOCK_MS` (R9). -/
def blockMs : Nat := 100

/-- `WIN_MS[w]` (R9). -/
def winMs : Win → Nat
  | .momentary => 400
  | .shortTerm => 3000

/-- `SLOTS[w] = WIN_MS[w] / BLOCK_MS`: 4 and 30 (R9, R110). -/
def slots (w : Win) : Nat := winMs w / blockMs

/-- `LOUD_OFS = -0.691` (R9; its bits: R120). -/
def loudOfs : F64 := ⟨0xBFE61CAC083126E9⟩

/-- `ABS_GATE = -70.0` LUFS (R9, R121). -/
def absGate : F64 := ⟨0xC051800000000000⟩

/-- `REL_GATE[w] = 10.0` LU for both windows (R9, R126). -/
def relGate : Win → F64
  | .momentary => ten
  | .shortTerm => ten

/-- `LRA_LO_PCT` (R9). -/
def lraLoPct : Nat := 10

/-- `LRA_HI_PCT` (R9). -/
def lraHiPct : Nat := 95

/-- `W_FRONT = 1.0` (R9). -/
def wFront : F64 := one

/-- `W_SURR = 1.4125375446227544` (R10). -/
def wSurr : F64 := ⟨0x3FF699C0F7E86E10⟩

/-- `OSF`, the oversampling factor (R9). -/
def osf : Nat := 4

/-- `HIST_RES`, buckets per LU (R10, R133). -/
def histRes : Nat := 10

/-- `HIST_MIN = -70.0` LUFS (R10). -/
def histMin : F64 := ⟨0xC051800000000000⟩

/-- `HIST_MAX - HIST_MIN` in whole LU: `+10.0 - (-70.0)` (R10). -/
def histSpan : Nat := 80

/-- `NB = (HIST_MAX - HIST_MIN) × HIST_RES + 1`, 801 buckets (R10). -/
def nb : Nat := histSpan * histRes + 1

/-- `MAXCH`, the largest channel count (R10). -/
def maxCh : Nat := 8

/-- The constraint R12 puts on a stage that `COEF` returns: `a0 = 1.0` and all six values finite. -/
def stageOk (t : Stage) : Bool :=
  t.a0 == one && Machine.isFinite t.b0 && Machine.isFinite t.b1 && Machine.isFinite t.b2 &&
    Machine.isFinite t.a1 && Machine.isFinite t.a2

/-- A `COEF` that meets its constraint in R12. -/
structure CoefFn where
  fn : BitVec 32 → Option (Stage × Stage)
  stages_ok : ∀ r p, fn r = some p → stageOk p.1 = true ∧ stageOk p.2 = true

/-- The domain of `LOG10`: strictly positive finite values (R12). -/
def posFinite (a : F64) : Bool := Machine.isFinite a && Machine.fGt a zero

/-- A `LOG10` that meets its constraints in R12. Outside its domain nothing constrains it. -/
structure Log10Fn where
  fn : F64 → F64
  mono : ∀ a b, posFinite a = true → posFinite b = true → Machine.fLe a b = true →
    Machine.fLe (fn a) (fn b) = true
  at_one : fn one = zero

/-- A `POW10` that meets its constraints in R12. Outside its domain nothing constrains it. -/
structure Pow10Fn where
  fn : F64 → F64
  mono : ∀ a b, Machine.isFinite a = true → Machine.isFinite b = true → Machine.fLe a b = true →
    Machine.fLe (fn a) (fn b) = true
  pos : ∀ a, Machine.isFinite a = true → Machine.fGt (fn a) zero = true
  at_zero : fn zero = one

/-- The machine's `COEF`: nothing is known of it but the constraint. -/
opaque coefParam [Inhabited CoefFn] : CoefFn
/-- The machine's `LOG10`: nothing is known of it but the constraints. -/
opaque log10Param [Inhabited Log10Fn] : Log10Fn
/-- The machine's `POW10`: nothing is known of it but the constraints. -/
opaque pow10Param [Inhabited Pow10Fn] : Pow10Fn

/-- That some function meets the constraint on `COEF` (the one that supports no rate). -/
def coefWitness : CoefFn := ⟨fun _ => none, by simp⟩

/-- That some function meets the constraints on `LOG10`. -/
def log10Witness : Log10Fn := ⟨fun _ => zero, fun _ _ _ _ _ => by decide, rfl⟩

/-- That some function meets the constraints on `POW10`. -/
def pow10Witness : Pow10Fn :=
  ⟨fun _ => one, fun _ _ _ _ _ => by decide, fun _ _ => by decide, rfl⟩

/-- `COEF(rate)`, an OPEN parameter (R12, D4): the pre-filter stage first, `none` for an unsupported rate. -/
def coef (rate : BitVec 32) : Option (Stage × Stage) := (@coefParam ⟨coefWitness⟩).fn rate

/-- `LOG10`, an OPEN parameter (R12, D5). -/
def log10 (a : F64) : F64 := (@log10Param ⟨log10Witness⟩).fn a

/-- `POW10`, an OPEN parameter (R12, D5). -/
def pow10 (a : F64) : F64 := (@pow10Param ⟨pow10Witness⟩).fn a

/-- FREE VALUE. The sign and the payload of a NaN that an operation on these operands gives. The spec names the
operation IEEE 754's (R15), and neither it nor the standard fixes those bits. -/
opaque nanBits (op : ArithOp) (a b : F64) : W64

end Config
end Sys2Proof
end

