-- ==== Sys2Proof/Machine/Float.lean ====
section
/-! DEFINITION. Binary64 arithmetic, rounded to nearest even, one rounding per operation, no flush to zero
(00_scope.md R11, R15). A finite value is a sign and a whole number of units of `2^-1074`, the smallest subnormal;
an operation computes its exact result in those units, as a fraction of two naturals, and rounds once. -/

namespace Sys2Proof.Machine

/-- The magnitude of a finite value in units of `2^-1074`. -/
def unitsOf (a : F64) : Nat :=
  if a.expo = 0 then a.frac else (a.frac + 2 ^ 52) * 2 ^ (a.expo - 1)

/-- The value of a finite binary64 in units of `2^-1074`, with its sign. -/
def signedUnits (a : F64) : Int := if a.sign then -(unitsOf a : Int) else (unitsOf a : Int)

/-- How many units of `2^-1074` make 1.0. -/
def unitsOfOne : Nat := 2 ^ 1074

/-- Bits 62:0 of the encoding of the magnitude `n / d` units, rounded to nearest, ties to even; a magnitude that
rounds past the largest finite value gives the encoding of infinity. With `e` the binade (0 for the subnormals and
the first normal binade) the grid is `2^e` units, and the encoding of `t` grid steps in binade `e` is `e * 2^52 + t`,
also when rounding carries into the next binade. -/
def roundMag (n d : Nat) : Nat :=
  let e := Nat.log2 (n / d) - 52
  let grid := d * 2 ^ e
  let t := n / grid
  let r := n % grid
  let t' := if grid < 2 * r ∨ (2 * r = grid ∧ t % 2 = 1) then t + 1 else t
  min (e * 2 ^ 52 + t') (2047 * 2 ^ 52)

/-- The binary64 nearest to `n / d` units of the given sign. -/
def roundUnits (neg : Bool) (n d : Nat) : F64 :=
  ⟨BitVec.ofBool neg ++ BitVec.ofNat 63 (roundMag n d)⟩

/-- `+0.0` or `-0.0`. -/
def signedZero (neg : Bool) : F64 := ⟨BitVec.ofBool neg ++ 0#63⟩

/-- `+Inf` or `-Inf`. -/
def signedInf (neg : Bool) : F64 := ⟨BitVec.ofBool neg ++ BitVec.ofNat 63 (2047 * 2 ^ 52)⟩

/-- The NaN an operation gives: a quiet NaN whose sign and payload are free (`Config.nanBits`). -/
def nanResult (op : ArithOp) (a b : F64) : F64 := ⟨Config.nanBits op a b ||| 0x7FF8000000000000⟩

/-- `a + b` with the operation's name passed on to a NaN result: shared by addition and subtraction. An exact sum of
zero is `+0.0` unless both operands are `-0.0`. -/
def addAs (op : ArithOp) (a b a' b' : F64) : F64 :=
  if isNaN a || isNaN b then nanResult op a' b'
  else if isInf a then
    (if isInf b && (a.sign != b.sign) then nanResult op a' b' else signedInf a.sign)
  else if isInf b then signedInf b.sign
  else
    let v := signedUnits a + signedUnits b
    if v = 0 then signedZero (a.sign && b.sign) else roundUnits (decide (v < 0)) v.natAbs 1

/-- `a + b` (R15). -/
def fAdd (a b : F64) : F64 := addAs .add a b a b

/-- `a - b` (R15): the sum of `a` and `b` with its sign turned round. -/
def fSub (a b : F64) : F64 := addAs .sub a (fNeg b) a b

/-- `a * b` (R15). -/
def fMul (a b : F64) : F64 :=
  if isNaN a || isNaN b then nanResult .mul a b
  else
    let neg := a.sign != b.sign
    if isInf a || isInf b then
      (if a.mag = 0 || b.mag = 0 then nanResult .mul a b else signedInf neg)
    else roundUnits neg (unitsOf a * unitsOf b) unitsOfOne

/-- `a / b` (R15): `0 / 0` and `Inf / Inf` give NaN, a finite value other than zero over zero gives infinity. -/
def fDiv (a b : F64) : F64 :=
  if isNaN a || isNaN b then nanResult .div a b
  else
    let neg := a.sign != b.sign
    if isInf a then (if isInf b then nanResult .div a b else signedInf neg)
    else if isInf b then signedZero neg
    else if b.mag = 0 then (if a.mag = 0 then nanResult .div a b else signedInf neg)
    else roundUnits neg (unitsOf a * unitsOfOne) (unitsOf b)

/-- `f64(n)`: an unsigned integer rounded to binary64 (R15). -/
def fOfNat (n : Nat) : F64 := roundUnits false (n * unitsOfOne) 1

/-- `floor(a)` of a finite value, as an integer (R15). -/
def fFloor (a : F64) : Int := signedUnits a / (unitsOfOne : Int)

end Sys2Proof.Machine
end

