-- ==== Sys2Proof/Syntax.lean ====
section
/-! DEFINITION. The seven commands, LMC's instruction set (00_scope.md R3, 30_encoding.md R68), one constructor per row
of the opcode table, and the RD selectors (10_state.md R35). -/

namespace Sys2Proof

/-- The defined RD selectors, the only numbered registers of LMC (R35). -/
inductive Selector where
  | status
  | cfg0
  | cfgPanw
  | cfgClass
  | m
  | s
  | i
  | lra
  | lraLow
  | lraHigh
  | spG
  | tpG
  /-- `SP[c]`, the sample peak of channel `c`. -/
  | sp (c : Fin 8)
  /-- `TP[c]`, the true peak of channel `c`. -/
  | tp (c : Fin 8)
deriving DecidableEq, Repr

/-- The selector's number (R35). -/
def Selector.code : Selector → BitVec 8
  | .status => 0x00
  | .cfg0 => 0x01
  | .cfgPanw => 0x02
  | .cfgClass => 0x03
  | .m => 0x10
  | .s => 0x11
  | .i => 0x12
  | .lra => 0x13
  | .lraLow => 0x14
  | .lraHigh => 0x15
  | .spG => 0x20
  | .tpG => 0x21
  | .sp c => BitVec.ofNat 8 (0x40 + c.val)
  | .tp c => BitVec.ofNat 8 (0x60 + c.val)

/-- The peak selectors, which alone accept the `DB` flag (R35, R163). -/
def Selector.isPeak : Selector → Bool
  | .spG => true
  | .tpG => true
  | .sp _ => true
  | .tp _ => true
  | .status => false
  | .cfg0 => false
  | .cfgPanw => false
  | .cfgClass => false
  | .m => false
  | .s => false
  | .i => false
  | .lra => false
  | .lraLow => false
  | .lraHigh => false

/-- A command: its opcode and its operands, as decoding gives them (R79). The `len` field of FRAME and OSFRAME is
the number of their samples. -/
inductive Instr where
  /-- INIT, opcode 0x01: its three payload words (R72, R73). -/
  | init (w0 w1 w2 : W64)
  /-- FRAME, opcode 0x02: one raw sample per channel (R71). -/
  | frame (xs : List F64)
  /-- OSFRAME, opcode 0x03: one oversampled sample per channel (R71). -/
  | osframe (ys : List F64)
  /-- OSFAIL, opcode 0x04. -/
  | osfail
  /-- CLOSE, opcode 0x05. -/
  | close
  /-- RESET, opcode 0x06. -/
  | reset
  /-- RD, opcode 0x07: a selector and the `DB` flag. -/
  | rd (sel : Selector) (db : Bool)
deriving DecidableEq, Repr

end Sys2Proof
end

