-- ==== Sys2Proof/Machine/State.lean ====
section
/-! DEFINITION. The state of LMC (10_state.md R20 to R38) with its three streams (20_memory.md R51), as plain data, and
the state after reset. -/

namespace Sys2Proof.Machine

/-- A three-sample history (R25): the current value, the previous one, the one before. -/
structure Hist3 where
  h0 : F64
  h1 : F64
  h2 : F64
deriving DecidableEq, Repr

/-- The registers of one channel `c` (R40: no other channel reads or writes them). -/
structure Channel where
  /-- `W[c]`, the channel weight (R24, R100). -/
  w : F64
  /-- `X[c][0..2]`, the input history (R25). -/
  x : Hist3
  /-- `Y[c][0..2]`, the pre-filter output history (R25). -/
  y : Hist3
  /-- `Z[c][0..2]`, the RLB output history (R25). -/
  z : Hist3
  /-- `ACC[c]`, the sum of squares of the current block (R26). -/
  acc : F64
  /-- `SPK[c]`, the sample peak (R30). -/
  spk : F64
  /-- `TPK[c]`, the true peak (R30). -/
  tpk : F64
deriving DecidableEq, Repr

/-- One sliding-window integrator with its gate (R27). -/
structure Integrator where
  /-- `CACHE[w][0 .. SLOTS[w]-1]`. -/
  cache : List F64
  /-- `POS[w]`, where the next block power goes. -/
  pos : BitVec 8
  /-- `SUM[w]`, the running sum, never recomputed from the cache (R28). -/
  sum : F64
  /-- `FILLED[w]`. -/
  filled : Bool
  /-- `RELTHR[w]`, meaningful when `NKEPT[w] > 0`. -/
  relThr : F64
  /-- `SUMKEPT[w]`. -/
  sumKept : F64
  /-- `NKEPT[w]`; an unbounded natural, as R13 allows. -/
  nKept : Nat
  /-- `HIST[w][0 .. NB-1]`; unbounded naturals, as R13 allows. -/
  hist : List Nat
deriving DecidableEq, Repr

/-- The published snapshot `SNAP.*` (R32). `none` is the spec's own "unavailable" (R165). -/
structure Snapshot where
  m : Option F64
  s : Option F64
  i : Option F64
  lra : Option F64
  lraLow : Option F64
  lraHigh : Option F64
  /-- `SNAP.SP[c]`, `c = 0 .. NCH-1`. -/
  sp : List (Option F64)
  spG : Option F64
  /-- `SNAP.TP[c]`, `c = 0 .. NCH-1`. -/
  tp : List (Option F64)
  tpG : Option F64
deriving DecidableEq, Repr

/-- The session record (R20): everything that exists only while a session does. -/
structure Session where
  /-- `RATE` (R23). -/
  rate : BitVec 32
  /-- `NCH` (R23). -/
  nch : BitVec 8
  /-- `SP_EN` (R23). -/
  spEn : Bool
  /-- `TP_EN` (R23). -/
  tpEn : Bool
  /-- `DUALMONO`, as latched (R23). -/
  dualMono : Bool
  /-- `PANW` (R23). -/
  panw : F64
  /-- `CLASS[0 .. 7]` (R23). -/
  classes : List (BitVec 8)
  /-- `BLOCK_LEN` (R24). -/
  blockLen : BitVec 32
  /-- `PRE`, the pre-filter coefficients (R24). -/
  pre : Stage
  /-- `RLB`, the high-pass coefficients (R24). -/
  rlb : Stage
  /-- The channels `0 .. NCH-1`. -/
  chans : List Channel
  /-- `NACC`, frames in the current block (R26). -/
  nacc : BitVec 32
  /-- Integrator 0, the 400 ms window (R27). -/
  int0 : Integrator
  /-- Integrator 1, the 3000 ms window (R27). -/
  int1 : Integrator
  /-- `SPK_G` (R30). -/
  spkG : F64
  /-- `TPK_G` (R30). -/
  tpkG : F64
  /-- `SEEN` (R31). -/
  seen : Bool
  /-- `OSSEEN` (R31). -/
  osSeen : Bool
  /-- `TP_FAIL` (R31). -/
  tpFail : Bool
  /-- `SNAP.*` (R32). -/
  snap : Snapshot
deriving DecidableEq, Repr

/-- The values of `ST` in which a session record exists (R22). -/
inductive Phase where
  | ready
  | accumulating
  | refreshed
  | closed
deriving DecidableEq, Repr

/-- The pair (`ST`, session record) of R20: the record is absent in UNINITIALIZED and present in every other state. -/
inductive Facade where
  | uninitialized
  | active (ph : Phase) (r : Session)
deriving DecidableEq, Repr

/-- The response codes (30_encoding.md R75). -/
inductive Code where
  | ok
  | eConfig
  | eTerminal
  | eSeq
  | eIllegal
  | eData
deriving DecidableEq, Repr

/-- The response to one command (R74). -/
structure Response where
  code : Code
  valid : Bool
  data : W64
deriving DecidableEq, Repr

/-- An output event (R78, 60_exceptions.md R196). -/
inductive Event where
  /-- `EV_RSREQ`: the raw frame and the oversampling factor, for the resampling collaborator. -/
  | rsreq (xs : List F64) (osf : Nat)
  /-- `EV_REFRESH`: a block cycle has completed and its snapshot is published. -/
  | refresh
  /-- `EV_CLOSED`: the session is closed and its final snapshot published. -/
  | closed
deriving DecidableEq, Repr

/-- One LMC: its architectural state (R20) and the three streams it touches (R51). -/
structure State where
  /-- `ST` and the session record. -/
  facade : Facade
  /-- The command stream: words the host has sent and LMC has not consumed, oldest first. Its head is a header word. -/
  commands : List W64
  /-- The response stream: every response produced, oldest first. -/
  responses : List Response
  /-- The event stream: every event emitted, oldest first. -/
  events : List Event
deriving DecidableEq, Repr

/-- Why the machine would stop with a fault. LMC has none: a refused command answers with a response code and the
machine goes on (60_exceptions.md R186, R198), so the type has no constructor. -/
inductive Fault where
deriving DecidableEq, Repr

/-- Why a command would have no meaning. -/
inductive Refusal where
  /-- Raised by `exec` for an instruction without a meaning yet; no arm raises it now. Safe: the machine stops. -/
  | notModelled (mnemonic : String)
deriving DecidableEq, Repr

/-- The outcome of one step of LMC. -/
abbrev Result := Host.Outcome State Fault Refusal

/-- The facade state register `ST` (R22). -/
inductive ST where
  | uninitialized
  | ready
  | accumulating
  | refreshed
  | closed
deriving DecidableEq, Repr

/-- After reset: `ST = UNINITIALIZED`, no session record, the decoder at a command boundary (R38, 70_reset_and_hazards.md
R206); no word has arrived and nothing has been sent. -/
def State.reset : State :=
  { facade := .uninitialized, commands := [], responses := [], events := [] }

/-- The same machine with another facade. -/
def State.setFacade (s : State) (f : Facade) : State := { s with facade := f }

/-- The same machine with another command stream. -/
def State.setCommands (s : State) (ws : List W64) : State := { s with commands := ws }

/-- The same machine with one more response at the end of the stream. -/
def State.pushResponse (s : State) (r : Response) : State := { s with responses := s.responses ++ [r] }

/-- The same machine with one more event at the end of the stream. -/
def State.pushEvent (s : State) (e : Event) : State := { s with events := s.events ++ [e] }

/-- `ST` as the session phase gives it (R22). -/
def Facade.st : Facade → ST
  | .uninitialized => .uninitialized
  | .active .ready _ => .ready
  | .active .accumulating _ => .accumulating
  | .active .refreshed _ => .refreshed
  | .active .closed _ => .closed

/-- The integrator `w` of a session. -/
def Session.integ (r : Session) : Win → Integrator
  | .momentary => r.int0
  | .shortTerm => r.int1

end Sys2Proof.Machine
end

