-- ==== Sys2Proof/Machine/Filter.lean ====
section
/-! DEFINITION. The Weighting Filter Pair (40_filter.md R90 to R98). -/

namespace Sys2Proof.Machine

/-- A history with a new current value (R91): the current one becomes the previous one. -/
def shiftIn (v : F64) (h : Hist3) : Hist3 := ⟨v, h.h0, h.h1⟩

/-- `Biquad(S, u, v)` with `u = [u0, u1, u2]` and the two previous outputs `v1`, `v2`, in the association of R92;
`a0` takes no part. -/
def biquad (t : Stage) (u : Hist3) (v1 v2 : F64) : F64 :=
  fSub (fSub (fAdd (fAdd (fMul t.b0 u.h0) (fMul t.b1 u.h1)) (fMul t.b2 u.h2)) (fMul t.a1 v1)) (fMul t.a2 v2)

/-- `FilterStep(c, x)` on the channel's own registers (R91): pre-filter, then RLB. The K-weighted sample it returns
is the new `Z[c][0]`. -/
def filterStep (pre rlb : Stage) (x : F64) (c : Channel) : Channel :=
  let x' := shiftIn x c.x
  let y' := shiftIn (biquad pre x' c.y.h0 c.y.h1) c.y
  let z' := shiftIn (biquad rlb y' c.z.h0 c.z.h1) c.z
  { c with x := x', y := y', z := z' }

end Sys2Proof.Machine
end

