-- ==== Sys2Proof/Machine/Window.lean ====
section
/-! DEFINITION. The Sliding-Window Integrator (42_integrator.md R110 to R115). -/

namespace Sys2Proof.Machine

/-- The value about to be evicted, `CACHE[w][POS[w]]` (R111). -/
def evicted (g : Integrator) : F64 := g.cache.getD g.pos.toNat Config.zero

/-- `POS[w]` after a push: the next position modulo `SLOTS[w]` (R111). -/
def nextPos (w : Win) (g : Integrator) : Nat := (g.pos.toNat + 1) % Config.slots w

/-- `Push(w, P)` (R111): replace the slot at `POS`, subtract the evicted value once the cache is full, add `P`,
advance; the flag is set when the position comes back to 0. -/
def pushPower (w : Win) (p : F64) (g : Integrator) : Integrator :=
  let kept := if g.filled then fSub g.sum (evicted g) else g.sum
  { g with
    cache := g.cache.set g.pos.toNat p
    sum := fAdd kept p
    pos := BitVec.ofNat 8 (nextPos w g)
    filled := g.filled || nextPos w g == 0 }

/-- The window energy `E = SUM[w] / f64(SLOTS[w])` (R112, R125). -/
def windowEnergy (w : Win) (g : Integrator) : F64 := fDiv g.sum (fOfNat (Config.slots w))

/-- `WindowAvg(w)`: defined only once `FILLED[w]` (R112, R113). -/
def windowAvg (w : Win) (g : Integrator) : Option F64 :=
  if g.filled then some (windowEnergy w g) else none

end Sys2Proof.Machine
end

