-- ==== Sys2Proof/Machine/Gating.lean ====
section
/-! DEFINITION. The Gating & Histogram Engine: Integrated loudness and Loudness Range (43_gating_histogram.md R120 to R133). -/

namespace Sys2Proof.Machine

/-- `Loud(E)` (R120): `-Inf` for zero, negative and NaN energies. -/
def loud (e : F64) : F64 :=
  if fGt e Config.zero then fAdd Config.loudOfs (fMul Config.ten (Config.log10 e)) else Config.negInf

/-- `HistIdx(L)` (R122): floor to the bucket's lower edge, clamped to `0 .. NB-1`. -/
def histIdx (l : F64) : Nat :=
  if isNaN l || l == Config.negInf then 0
  else
    let t := fMul (fSub l Config.histMin) (fOfNat Config.histRes)
    if fLt t Config.zero then 0
    else if fGe t (fOfNat (Config.nb - 1)) then Config.nb - 1
    else (fFloor t).toNat

/-- `LoudRep(i)`, the lower edge of bucket `i` (R123). -/
def loudRep (i : Nat) : F64 := fAdd (fDiv (fOfNat i) (fOfNat Config.histRes)) Config.histMin

/-- `EnergyRep(i)`, the inverse of `Loud` at the lower edge (R123). -/
def energyRep (i : Nat) : F64 := Config.pow10 (fDiv (fSub (loudRep i) Config.loudOfs) Config.ten)

/-- The absolute gate: strictly above `ABS_GATE` (R121). -/
def passesGate (l : F64) : Bool := fGt l Config.absGate

/-- `HIST[w][k] <- HIST[w][k] + 1`. -/
def bump (k : Nat) (hist : List Nat) : List Nat := hist.modify k (· + 1)

/-- `RELTHR` of a kept-power total and a count: the loudness of their mean, less `REL_GATE[w]` (R125, R126). -/
def relThreshold (w : Win) (sumKept : F64) (nKept : Nat) : F64 :=
  fSub (loud (fDiv sumKept (fOfNat nKept))) (Config.relGate w)

/-- What a kept window of energy `e` does to the gate's registers (R125). -/
def keepWindow (w : Win) (e : F64) (g : Integrator) : Integrator :=
  { g with
    hist := bump (histIdx (loud e)) g.hist
    sumKept := fAdd g.sumKept e
    nKept := g.nKept + 1
    relThr := relThreshold w (fAdd g.sumKept e) (g.nKept + 1) }

/-- `GateUpdate(w)` (R125): nothing changes before the window has filled or when the gate fails. -/
def gateUpdate (w : Win) (g : Integrator) : Integrator :=
  if g.filled && passesGate (loud (windowEnergy w g)) then keepWindow w (windowEnergy w g) g else g

/-- The second pass of `Integrated` over the buckets `i, i+1, ...` (R128): the count and the sum of energies, in
ascending order, empty buckets skipped. -/
def gatedSums : Nat → List Nat → Nat → F64 → Nat × F64
  | _, [], cn, es => (cn, es)
  | i, h :: hs, cn, es =>
    if 0 < h then gatedSums (i + 1) hs (cn + h) (fAdd es (fMul (fOfNat h) (energyRep i)))
    else gatedSums (i + 1) hs cn es

/-- `Integrated()`, from integrator 0 (R128). -/
def integrated (g : Integrator) : Option F64 :=
  if g.nKept = 0 then none
  else
    let from_ := histIdx g.relThr
    let sums := gatedSums from_ (g.hist.drop from_) 0 Config.zero
    if sums.1 = 0 then none else some (loud (fDiv sums.2 (fOfNat sums.1)))

/-- The first bucket, from bucket `i` up, at which the cumulative count, `c` before it, reaches `pct` percent of
`n` (R129): `100 * C >= pct * n`. -/
def percentile (pct n : Nat) : Nat → List Nat → Nat → Option Nat
  | _, [], _ => none
  | i, h :: hs, c =>
    if pct * n ≤ 100 * (c + h) then some i else percentile pct n (i + 1) hs (c + h)

/-- The buckets of the low and the high percentile of integrator 1's gated histogram (R129). -/
def lraBuckets (g : Integrator) : Option (Nat × Nat) :=
  if g.nKept = 0 then none
  else
    let from_ := histIdx g.relThr
    let above := g.hist.drop from_
    let n := above.sum
    if n = 0 then none
    else
      match percentile Config.lraLoPct n from_ above 0, percentile Config.lraHiPct n from_ above 0 with
      | some lo, some hi => some (lo, hi)
      | some _, none => none
      | none, some _ => none
      | none, none => none

/-- `LraCompute()`, from integrator 1 (R129): (LRA, low bound, high bound). -/
def lraCompute (g : Integrator) : Option (F64 × F64 × F64) :=
  (lraBuckets g).map (fun b => (fSub (loudRep b.2) (loudRep b.1), loudRep b.1, loudRep b.2))

end Sys2Proof.Machine
end

