-- ==== Sys2Proof/Machine/Flags.lean ====
section
/-! DEFINITION. The one-bit flags of LMC as RD STATUS shows them (10_state.md R22, R31, R33), and the two validity
conditions computed from them (44_peak.md R148). LMC has no condition codes (R31). -/

namespace Sys2Proof.Machine

/-- The 3-bit encoding of `ST` (R22). -/
def stCode : ST → BitVec 3
  | .uninitialized => 0
  | .ready => 1
  | .accumulating => 2
  | .refreshed => 3
  | .closed => 4

/-- The fields of STATUS from bit 63 down to bit 0 (R33). -/
def packStatus (osSeen seen filled1 filled0 tpFail dualMono tpEn spEn : Bool) (st : ST) : W64 :=
  0#52 ++ BitVec.ofBool osSeen ++ BitVec.ofBool seen ++ BitVec.ofBool filled1 ++ BitVec.ofBool filled0 ++
    BitVec.ofBool tpFail ++ BitVec.ofBool dualMono ++ BitVec.ofBool tpEn ++ BitVec.ofBool spEn ++ 0#1 ++ stCode st

/-- The STATUS word, computed live (R33); in UNINITIALIZED every field is 0. -/
def statusWord (f : Facade) : W64 :=
  match f with
  | .uninitialized => packStatus false false false false false false false false .uninitialized
  | .active ph r =>
    packStatus r.osSeen r.seen r.int1.filled r.int0.filled r.tpFail r.dualMono r.tpEn r.spEn (Facade.active ph r).st

/-- Whether a publish made now reports sample peaks: `SP_EN` and `SEEN` (R148). -/
def spValid (r : Session) : Bool := r.spEn && r.seen

/-- Whether a publish made now reports true peaks: `TP_EN`, not `TP_FAIL`, and `OSSEEN` (R148, R164). DESIGN CHOICE
(log entry 21): a CLOSE in READY follows this too, so true peaks that an OSFRAME has raised are published there, where
the corner case of R159 says that everything is `none`. -/
def tpValid (r : Session) : Bool := r.tpEn && !r.tpFail && r.osSeen

/-- Whether the true-peak path runs: `TP_EN` and not `TP_FAIL` (R143, R144). -/
def tpActive (r : Session) : Bool := r.tpEn && !r.tpFail

end Sys2Proof.Machine
end

