-- ==== Sys2Proof/Machine/Operands.lean ====
section
/-! DEFINITION. The operands of the commands, taken from their payload words, and the checks on them
(30_encoding.md R71 to R73, 60_exceptions.md R187, R189). -/

namespace Sys2Proof.Machine

/-- `RATE`, INIT word 0 bits 31:0 (R72). -/
def initRate (w0 : W64) : BitVec 32 := w0.extractLsb' 0 32
/-- `NCH`, INIT word 0 bits 39:32 (R72). -/
def initNch (w0 : W64) : BitVec 8 := w0.extractLsb' 32 8
/-- `SP_EN`, INIT word 0 bit 40 (R72). -/
def initSp (w0 : W64) : Bool := w0.getLsbD 40
/-- `TP_EN`, INIT word 0 bit 41 (R72). -/
def initTp (w0 : W64) : Bool := w0.getLsbD 41
/-- `DUALMONO`, INIT word 0 bit 42 (R72). -/
def initDualMono (w0 : W64) : Bool := w0.getLsbD 42
/-- INIT word 0 bits 63:43, which must be zero (R72). -/
def initReserved (w0 : W64) : BitVec 21 := w0.extractLsb' 43 21

/-- `CLASS[c]`, INIT word 2 bits 8c+7 : 8c (R73). -/
def classByte (w2 : W64) (c : Nat) : BitVec 8 := w2.extractLsb' (8 * c) 8

/-- `CLASS[0 .. 7]` of INIT word 2 (R73). -/
def classBytes (w2 : W64) : List (BitVec 8) := (List.range 8).map (classByte w2)

/-- The eight class bytes as one word, byte `c` in bits 8c+7 : 8c (10_state.md R34). -/
def packClasses (ks : List (BitVec 8)) : W64 :=
  ks.foldr (fun k acc => (acc <<< 8) ||| k.setWidth 64) 0

/-- The class byte `k` of channel `c` is legal with `nch` channels: FRONT or SURROUND below `nch`, 0 from there on
(R73, R187 cause 5). -/
def classOk (nch c : Nat) (k : BitVec 8) : Bool := if c < nch then decide (k.toNat ≤ 1) else k == 0

/-- Every class byte is legal (R187 cause 5). -/
def classesOk (nch : Nat) (ks : List (BitVec 8)) : Bool :=
  ks.zipIdx.all (fun kc => classOk nch kc.2 kc.1)

/-- The dual-mono weight applies: dual mono is requested and there is one channel (41_channel_weighting.md R101). -/
def dualApplies (dualMono : Bool) (nch : BitVec 8) : Bool := dualMono && nch == 1

/-- `PANW` is finite and greater than 0 where it applies; elsewhere its bits are ignored (R101, R187 cause 6). -/
def panwOk (dualMono : Bool) (nch : BitVec 8) (panw : F64) : Bool :=
  !dualApplies dualMono nch || (isFinite panw && fGt panw Config.zero)

/-- The checks of INIT on its payload but for `COEF(RATE)` (45_facade.md R156, R187 causes 1 to 6). -/
def initPayloadOk (w0 w1 w2 : W64) : Bool :=
  initReserved w0 == 0 &&
  (initRate w0 != 0 && (initRate w0).toNat % 10 == 0) &&
  (decide (1 ≤ Config.slots .momentary) && decide (1 ≤ Config.slots .shortTerm)) &&
  (decide (1 ≤ (initNch w0).toNat) && decide ((initNch w0).toNat ≤ Config.maxCh)) &&
  classesOk (initNch w0).toNat (classBytes w2) &&
  panwOk (initDualMono w0) (initNch w0) ⟨w1⟩

/-- Every sample of a frame is finite (R189). -/
def allFinite (xs : List F64) : Bool := xs.all isFinite

end Sys2Proof.Machine
end

