-- ==== Sys2Proof/WellFormed.lean ====
section
/-! DEFINITION. Which commands have an encoding: the static conditions of 30_encoding.md R69 that the syntax leaves open. -/

namespace Sys2Proof

/-- The largest payload a header can announce: `len` is 8 bits wide (R66). -/
def maxPayload : Nat := 255

/-- A command that some well-formed header stands for (R69): a frame's length fits `len`, and `DB` stands only
with a peak selector. -/
def wellFormed : Instr → Bool
  | .init _ _ _ => true
  | .frame xs => decide (xs.length ≤ maxPayload)
  | .osframe ys => decide (ys.length ≤ maxPayload)
  | .osfail => true
  | .close => true
  | .reset => true
  | .rd sel db => !db || sel.isPeak

end Sys2Proof
end

