-- ==== Sys2Proof/Decode.lean ====
section
/-! DEFINITION. The decoder, total on any word stream (30_encoding.md R65 to R79), and after it the encoder. -/

namespace Sys2Proof

/-- `op`, bits 63:56 of a header (R66). -/
def opField (h : W64) : BitVec 8 := h.extractLsb' 56 8
/-- `sel`, bits 55:48 (R66). -/
def selField (h : W64) : BitVec 8 := h.extractLsb' 48 8
/-- `len`, bits 47:40: the number of payload words (R66, R67). -/
def lenField (h : W64) : BitVec 8 := h.extractLsb' 40 8
/-- `flg`, bits 39:32 (R66). -/
def flgField (h : W64) : BitVec 8 := h.extractLsb' 32 8
/-- `DB`, bit 32, the lowest bit of `flg` (R66). -/
def dbField (h : W64) : Bool := h.getLsbD 32
/-- `rsv`, bits 31:0 (R66). -/
def rsvField (h : W64) : BitVec 32 := h.extractLsb' 0 32

/-- Why a header is not well formed (R69, R76, R190 case a). All of them give `E_ILLEGAL`. -/
inductive HeaderFault where
  /-- `op` is outside 0x01 to 0x07. -/
  | undefinedOp
  /-- `rsv` is not zero. -/
  | rsvNonzero
  /-- `flg[39:33]` is not zero. -/
  | flgReserved
  /-- `sel` is not zero in a command other than RD. -/
  | selNonzero
  /-- `flg` is not zero in a command other than RD. -/
  | flgNonzero
  /-- `len` is not the fixed length of the opcode. -/
  | wrongLength
  /-- RD of a selector outside the table of R35. -/
  | undefinedSelector
  /-- `DB = 1` with a selector that is not a peak selector. -/
  | dbOnNonPeak
deriving DecidableEq, Repr

/-- Every defined selector, in the order of R35. -/
def selectors : List Selector :=
  [.status, .cfg0, .cfgPanw, .cfgClass, .m, .s, .i, .lra, .lraLow, .lraHigh, .spG, .tpG,
    .sp 0, .sp 1, .sp 2, .sp 3, .sp 4, .sp 5, .sp 6, .sp 7,
    .tp 0, .tp 1, .tp 2, .tp 3, .tp 4, .tp 5, .tp 6, .tp 7]

/-- The selector a number names, if it is defined (R35). -/
def selectorOf? (b : BitVec 8) : Option Selector := selectors.find? (fun sel => sel.code == b)

/-- RD's header, its opcode and its reserved bits already read (R69, R163). -/
def decodeRd (h : W64) : Except HeaderFault Instr :=
  if lenField h ≠ 0 then .error .wrongLength
  else match selectorOf? (selField h) with
    | none => .error .undefinedSelector
    | some sel => if dbField h && !sel.isPeak then .error .dbOnNonPeak else .ok (.rd sel (dbField h))

/-- The payload of each command but RD, whose words have all arrived (R68, R71 to R73). -/
def decodePayload (op : BitVec 8) (pay : List W64) : Except HeaderFault Instr :=
  if op = 0x01 then
    match pay with
    | [w0, w1, w2] => .ok (.init w0 w1 w2)
    | _ => .error .wrongLength
  else if op = 0x02 then .ok (.frame (pay.map F64.mk))
  else if op = 0x03 then .ok (.osframe (pay.map F64.mk))
  else if op = 0x04 then (if pay = [] then .ok .osfail else .error .wrongLength)
  else if op = 0x05 then (if pay = [] then .ok .close else .error .wrongLength)
  else if op = 0x06 then (if pay = [] then .ok .reset else .error .wrongLength)
  else .error .undefinedOp

/-- A header and the payload words it announces (R69, R79): the command, or why it is illegal. -/
def decodeCommand (h : W64) (pay : List W64) : Except HeaderFault Instr :=
  if opField h = 0x00 ∨ 0x07 < opField h then .error .undefinedOp
  else if rsvField h ≠ 0 then .error .rsvNonzero
  else if (flgField h).extractLsb' 1 7 ≠ 0 then .error .flgReserved
  else if opField h = 0x07 then decodeRd h
  else if selField h ≠ 0 then .error .selNonzero
  else if flgField h ≠ 0 then .error .flgNonzero
  else decodePayload (opField h) pay

/-- What the head of the command stream holds. -/
inductive Decoded where
  /-- Not all `1 + len` words of the next command have arrived; execution does not begin (R67). -/
  | incomplete
  /-- An illegal command, and the stream behind the `1 + len` words it consumes (R67, R76). -/
  | illegal (why : HeaderFault) (rest : List W64)
  /-- A command, and the stream behind its words. -/
  | command (i : Instr) (rest : List W64)
deriving DecidableEq, Repr

/-- The decoder (R79): header, then always `len` payload words, whatever the header says (R67). -/
def decode : List W64 → Decoded
  | [] => .incomplete
  | h :: ws =>
    let n := (lenField h).toNat
    if ws.length < n then .incomplete
    else match decodeCommand h (ws.take n) with
      | .error why => .illegal why (ws.drop n)
      | .ok i => .command i (ws.drop n)

/-- The 64-bit words of a number of `nbits` bits, the word with bit 0 first. -/
def tableWords (nbits w : Nat) : List W64 :=
  (List.range ((nbits + 63) / 64)).map (fun k => BitVec.ofNat 64 (w >>> (64 * k)))

/-- The words of one whole command that begins with the given words: exactly `1 + len` of them, zeros where
none is given. -/
def commandWords (ws : List W64) : List W64 :=
  match ws with
  | [] => [0]
  | h :: _ => (ws ++ List.replicate maxPayload 0).take (1 + (lenField h).toNat)

/-- The command the decoder reads from an instruction whose bits are `w`, its first word in the low bits, zeros
behind. -/
def decodeTableWord (nbits w : Nat) : Option Instr :=
  match decode (commandWords (tableWords nbits w)) with
  | .command i _ => some i
  | .illegal _ _ => none
  | .incomplete => none

/-- A header word: `op`, `sel`, `len`, `flg` and a zero `rsv` (R66). -/
def headerWord (op sel len : BitVec 8) (db : Bool) : W64 :=
  op ++ sel ++ len ++ (0#7 ++ BitVec.ofBool db) ++ 0#32

/-- The words of a well-formed command, header first (R66, R68, R71 to R73). -/
def encode : Instr → List W64
  | .init w0 w1 w2 => [headerWord 0x01 0 3 false, w0, w1, w2]
  | .frame xs => headerWord 0x02 0 (BitVec.ofNat 8 xs.length) false :: xs.map F64.bits
  | .osframe ys => headerWord 0x03 0 (BitVec.ofNat 8 ys.length) false :: ys.map F64.bits
  | .osfail => [headerWord 0x04 0 0 false]
  | .close => [headerWord 0x05 0 0 false]
  | .reset => [headerWord 0x06 0 0 false]
  | .rd sel db => [headerWord 0x07 sel.code 0 db]

end Sys2Proof
end

