-- ==== Sys2Proof/Machine/Ops.lean ====
section
/-! DEFINITION. The named operations every command is written with: answering, refusing, emitting, the session-state
checks, consuming the command stream, and the wire forms of responses and events. LMC has no addressable memory
(20_memory.md R50), so there are no memory operations here. -/

namespace Sys2Proof.Machine

/-- `respond(valid, data)`: the command ends with code `OK` (00_scope.md R17). -/
def respond (valid : Bool) (data : W64) (s : State) : State := s.pushResponse ⟨.ok, valid, data⟩

/-- `respond(0, 0)`, the response of every command but RD (R17). -/
def respondOk (s : State) : State := respond false 0 s

/-- TAKING AN EXCEPTION. `raise E` (60_exceptions.md R186): the command ends at once, no register is written, no event is
emitted, the response is the code alone. There is no saved register, no handler and no return from it (R198):
the next command is decoded normally. -/
def raise (e : Code) (s : State) : State := s.pushResponse ⟨e, false, 0⟩

/-- `emit EV(...)` (R17, R196). -/
def emit (e : Event) (s : State) : State := s.pushEvent e

/-- The state checks of a command that needs a live session (R194 step 2): `E_SEQ` without a session (R191),
`E_TERMINAL` in CLOSED (R188), else the command goes on with the phase and the session record. -/
def whenLive (s : State) (k : Phase → Session → State) : State :=
  match s.facade with
  | .uninitialized => raise .eSeq s
  | .active .closed _ => raise .eTerminal s
  | .active .ready r => k .ready r
  | .active .accumulating r => k .accumulating r
  | .active .refreshed r => k .refreshed r

/-- The state check of INIT (R156): `E_TERMINAL` in CLOSED, `E_SEQ` in any other session. -/
def whenNoSession (s : State) (k : State) : State :=
  match s.facade with
  | .uninitialized => k
  | .active .closed _ => raise .eTerminal s
  | .active .ready _ => raise .eSeq s
  | .active .accumulating _ => raise .eSeq s
  | .active .refreshed _ => raise .eSeq s

/-- The payload checks of FRAME and OSFRAME in their order (R194 steps 3 and 4): `len = NCH`, then every sample
finite. -/
def checkFrame (xs : List F64) (r : Session) (s : State) (k : State) : State :=
  if xs.length ≠ r.nch.toNat then raise .eIllegal s
  else if !allFinite xs then raise .eData s
  else k

/-- The next command of the stream (R55, R65, R67). -/
def fetch (s : State) : Decoded := decode s.commands

/-- The host sends words: they join the end of the command stream (20_memory.md R51). An input of the machine, not a step. -/
def hostSend (ws : List W64) (s : State) : State := s.setCommands (s.commands ++ ws)

/-- The hardware reset (70_reset_and_hazards.md R205, R206, R208): it may strike between any two steps. The session is gone,
and the decoder is at a command boundary: words of a command whose payload was still arriving are dropped, and
the host starts the stream again with a header. An input of the machine, not a step. -/
def hardwareReset (s : State) : State := (s.setFacade .uninitialized).setCommands []

/-- The 4-bit response code (30_encoding.md R75). -/
def codeBits : Code → BitVec 4
  | .ok => 0
  | .eConfig => 1
  | .eTerminal => 2
  | .eSeq => 3
  | .eIllegal => 4
  | .eData => 5

/-- The 72-bit response word `{code[3:0], 0[2:0], valid, data[63:0]}` (R74). -/
def packResponse (r : Response) : BitVec 72 :=
  codeBits r.code ++ 0#3 ++ BitVec.ofBool r.valid ++ r.data

/-- The tag word of an event, `{kind[7:0], count[7:0], 0[47:0]}` (R78). -/
def eventTag (kind count : BitVec 8) : W64 := kind ++ count ++ 0#48

/-- The wire form of an event (R78). -/
def eventWords : Event → List W64
  | .rsreq xs osf => eventTag 1 (BitVec.ofNat 8 xs.length) :: BitVec.ofNat 64 osf :: xs.map F64.bits
  | .refresh => [eventTag 2 0]
  | .closed => [eventTag 3 0]

end Sys2Proof.Machine
end

