-- ==== Sys2Proof/Machine/Peak.lean ====
section
/-! DEFINITION. The Peak Detector, with the meanings of OSFRAME and OSFAIL (44_peak.md R140 to R149). -/

namespace Sys2Proof.Machine

/-- A running maximum of magnitudes: `if a > peak then peak <- a` (R141, R144). -/
def raisePeak (a peak : F64) : F64 := if fGt a peak then a else peak

/-- `PeakSample(c, x)` on the channel's sample peak (R141). -/
def peakSample (x : F64) (c : Channel) : Channel := { c with spk := raisePeak (fAbs x) c.spk }

/-- One oversampled sample on the channel's true peak (R144). -/
def truePeakSample (y : F64) (c : Channel) : Channel := { c with tpk := raisePeak (fAbs y) c.tpk }

/-- A global peak raised by each sample of a frame in channel order (R141, R142, R144). -/
def raiseAll (xs : List F64) (peak : F64) : F64 := xs.foldl (fun g x => raisePeak (fAbs x) g) peak

/-- The oversampled frame folded into the true peaks, and `OSSEEN` set (R144). -/
def foldTruePeaks (ys : List F64) (r : Session) : Session :=
  { r with
    chans := List.zipWith truePeakSample ys r.chans
    tpkG := raiseAll ys r.tpkG
    osSeen := true }

/-- `PeakDb(p)` (R147): `-Inf` for a peak of zero. -/
def peakDb (p : F64) : F64 :=
  if fGt p Config.zero then fMul Config.twenty (Config.log10 p) else Config.negInf

/-- `TP_FAIL <- true` (R146). -/
def markFailed (r : Session) : Session := { r with tpFail := true }

/-- OSFRAME (R144). With true peak off or failed it is accepted and does nothing. -/
def execOsframe (ys : List F64) (s : State) : Result :=
  .next (whenLive s (fun ph r => checkFrame ys r s
    (respondOk (if tpActive r then s.setFacade (.active ph (foldTruePeaks ys r)) else s))))

/-- OSFAIL (R146): `TP_FAIL` is set, sticky for the session, when true peak is enabled. -/
def execOsfail (s : State) : Result :=
  .next (whenLive s (fun ph r =>
    respondOk (if r.tpEn then s.setFacade (.active ph (markFailed r)) else s)))

end Sys2Proof.Machine
end

