-- ==== Sys2Proof/Machine/Weighting.lean ====
section
/-! DEFINITION. Channel Weighting and block power (41_channel_weighting.md R100 to R104). -/

namespace Sys2Proof.Machine

/-- `W[c]` of a channel whose class byte is `k` (R100, R101). -/
def channelWeight (dualMono : Bool) (nch : BitVec 8) (panw : F64) (k : BitVec 8) : F64 :=
  if dualApplies dualMono nch then panw
  else if k = 1 then Config.wSurr
  else Config.wFront

/-- `Accumulate(c, z)` (R102). -/
def accumulate (z : F64) (c : Channel) : Channel := { c with acc := fAdd c.acc (fMul z z) }

/-- The term of channel `c` in the block power: `W[c] * (ACC[c] / f64(n))` (R103). -/
def channelPower (n : Nat) (c : Channel) : F64 := fMul c.w (fDiv c.acc (fOfNat n))

/-- The block power `P`: the weighted sum over the channels in ascending order, from `+0.0` (R103, R104). -/
def blockPower (n : Nat) (chans : List Channel) : F64 :=
  chans.foldl (fun p c => fAdd p (channelPower n c)) Config.zero

/-- `ACC[c] <- +0.0` (R103). -/
def clearAcc (c : Channel) : Channel := { c with acc := Config.zero }

end Sys2Proof.Machine
end

