-- ==== Sys2Proof/Machine/Facade.lean ====
section
/-! DEFINITION. The Metric Facade: the block cycle, the publish, and the meanings of INIT, RESET, FRAME, CLOSE and RD
(45_facade.md R155 to R167, 41_channel_weighting.md R103). -/

namespace Sys2Proof.Machine

/-- The snapshot a publish made now writes, from the live state (R164). -/
def snapshotOf (r : Session) : Snapshot :=
  let lra := lraCompute r.int1
  { m := (windowAvg .momentary r.int0).map loud
    s := (windowAvg .shortTerm r.int1).map loud
    i := integrated r.int0
    lra := lra.map (fun t => t.1)
    lraLow := lra.map (fun t => t.2.1)
    lraHigh := lra.map (fun t => t.2.2)
    sp := r.chans.map (fun c => if spValid r then some c.spk else none)
    spG := if spValid r then some r.spkG else none
    tp := r.chans.map (fun c => if tpValid r then some c.tpk else none)
    tpG := if tpValid r then some r.tpkG else none }

/-- `Publish()`: the whole snapshot at once, and nothing else (R164). -/
def publish (r : Session) : Session := { r with snap := snapshotOf r }

/-- The two pushes of a block power and the two gate updates; both pushes precede both gate updates (R103, R161). -/
def integrate (p : F64) (r : Session) : Session :=
  { r with
    int0 := gateUpdate .momentary (pushPower .momentary p r.int0)
    int1 := gateUpdate .shortTerm (pushPower .shortTerm p r.int1) }

/-- The accumulators cleared for the next block (R103). -/
def clearBlock (r : Session) : Session := { r with chans := r.chans.map clearAcc, nacc := 0 }

/-- `BlockCycle(n)` on the session record (R103); its event `EV_REFRESH` is emitted by `refreshTo`. -/
def blockCycle (n : Nat) (r : Session) : Session :=
  publish (integrate (blockPower n r.chans) (clearBlock r))

/-- A block cycle that leaves the facade in phase `ph`, and its `EV_REFRESH` (R103, R158, R159). -/
def refreshTo (ph : Phase) (n : Nat) (r : Session) (s : State) : State :=
  emit .refresh (s.setFacade (.active ph (blockCycle n r)))

/-- One raw sample on its channel, in the order of R158: peak (when `SP_EN`), filter, accumulate. -/
def ingestSample (spEn : Bool) (pre rlb : Stage) (x : F64) (c : Channel) : Channel :=
  let c1 := if spEn then peakSample x c else c
  let c2 := filterStep pre rlb x c1
  accumulate c2.z.h0 c2

/-- One frame on the session record: every channel's sample, the global sample peak, `SEEN` and `NACC` (R158). -/
def ingestFrame (xs : List F64) (r : Session) : Session :=
  { r with
    chans := List.zipWith (ingestSample r.spEn r.pre r.rlb) xs r.chans
    spkG := if r.spEn then raiseAll xs r.spkG else r.spkG
    seen := true
    nacc := r.nacc + 1 }

/-- The request to the resampling collaborator, when the true-peak path runs (R143, R158). -/
def requestResample (xs : List F64) (r : Session) (s : State) : State :=
  if tpActive r then emit (.rsreq xs Config.osf) s else s

/-- The end of a FRAME (R158): a block cycle and REFRESHED when the frame completes the block, ACCUMULATING
otherwise. -/
def commitFrame (r : Session) (s : State) : State :=
  if r.nacc = r.blockLen then refreshTo .refreshed r.blockLen.toNat r s
  else s.setFacade (.active .accumulating r)

/-- FRAME (R158). -/
def execFrame (xs : List F64) (s : State) : Result :=
  .next (whenLive s (fun _ r => checkFrame xs r s
    (respondOk (commitFrame (ingestFrame xs r) (requestResample xs r s)))))

/-- CLOSE (R159): flush a partial block or publish, then CLOSED and `EV_CLOSED`. In READY the publish is that of R164,
true peaks included where `tpValid` holds (log entry 21). -/
def execClose (s : State) : Result :=
  .next (whenLive s (fun _ r =>
    respondOk (emit .closed
      (if r.nacc ≠ 0 then refreshTo .closed r.nacc.toNat r s
       else s.setFacade (.active .closed (publish r))))))

/-- RESET (R157): legal in every state. -/
def execReset (s : State) : Result := .next (respondOk (s.setFacade .uninitialized))

/-- A history of zeros (R38). -/
def zeroHist : Hist3 := ⟨Config.zero, Config.zero, Config.zero⟩

/-- A channel after INIT: its weight, and `+0.0` everywhere else (R38). -/
def newChannel (w : F64) : Channel :=
  { w := w, x := zeroHist, y := zeroHist, z := zeroHist, acc := Config.zero, spk := Config.zero, tpk := Config.zero }

/-- An integrator after INIT (R27, R38). -/
def newIntegrator (w : Win) : Integrator :=
  { cache := List.replicate (Config.slots w) Config.zero
    pos := 0
    sum := Config.zero
    filled := false
    relThr := Config.zero
    sumKept := Config.zero
    nKept := 0
    hist := List.replicate Config.nb 0 }

/-- The snapshot after INIT: every metric unavailable (R38). -/
def emptySnapshot (nch : Nat) : Snapshot :=
  { m := none, s := none, i := none, lra := none, lraLow := none, lraHigh := none
    sp := List.replicate nch none, spG := none, tp := List.replicate nch none, tpG := none }

/-- The session a valid INIT payload creates (R38, R156), given the coefficients of its rate. -/
def newSession (w0 w1 w2 : W64) (stages : Stage × Stage) : Session :=
  let nch := initNch w0
  { rate := initRate w0
    nch := nch
    spEn := initSp w0
    tpEn := initTp w0
    dualMono := initDualMono w0
    panw := ⟨w1⟩
    classes := classBytes w2
    blockLen := initRate w0 / 10
    pre := stages.1
    rlb := stages.2
    chans := ((classBytes w2).take nch.toNat).map
      (fun k => newChannel (channelWeight (initDualMono w0) nch ⟨w1⟩ k))
    nacc := 0
    int0 := newIntegrator .momentary
    int1 := newIntegrator .shortTerm
    spkG := Config.zero
    tpkG := Config.zero
    seen := false
    osSeen := false
    tpFail := false
    snap := emptySnapshot nch.toNat }

/-- The commit of INIT with a valid payload (R156): the session, in READY, when the rate has coefficients; `E_CONFIG`
when it has none (R187 cause 2). -/
def commitInit (w0 w1 w2 : W64) (stages : Option (Stage × Stage)) (s : State) : State :=
  match stages with
  | none => raise .eConfig s
  | some st => respondOk (s.setFacade (.active .ready (newSession w0 w1 w2 st)))

/-- INIT (R156). -/
def execInit (w0 w1 w2 : W64) (s : State) : Result :=
  .next (whenNoSession s
    (if initPayloadOk w0 w1 w2 then commitInit w0 w1 w2 (Config.coef (initRate w0)) s else raise .eConfig s))

/-- CFG0 (10_state.md R34). -/
def cfg0Word (r : Session) : W64 :=
  0#21 ++ BitVec.ofBool r.dualMono ++ BitVec.ofBool r.tpEn ++ BitVec.ofBool r.spEn ++ r.nch ++ r.rate

/-- The answer of RD for a metric that may be unavailable: (valid, data) (R163, R165). -/
def readMetric (v : Option F64) : Bool × W64 :=
  match v with
  | none => (false, 0)
  | some a => (true, a.bits)

/-- The answer of RD for a peak, linear or in dBFS (R147, R163). -/
def readPeak (db : Bool) (v : Option F64) : Bool × W64 :=
  readMetric (v.map (fun p => if db then peakDb p else p))

/-- A per-channel peak of the snapshot; none for a channel `c >= NCH` (R35, R163). -/
def channelPeak (r : Session) (peaks : List (Option F64)) (c : Fin 8) : Option F64 :=
  if c.val < r.nch.toNat then peaks.getD c.val none else none

/-- What RD of a selector answers in a session: (valid, data) (R163). -/
def readSession (sel : Selector) (db : Bool) (ph : Phase) (r : Session) : Bool × W64 :=
  match sel with
  | .status => (true, statusWord (.active ph r))
  | .cfg0 => (true, cfg0Word r)
  | .cfgPanw => (true, r.panw.bits)
  | .cfgClass => (true, packClasses r.classes)
  | .m => readMetric r.snap.m
  | .s => readMetric r.snap.s
  | .i => readMetric r.snap.i
  | .lra => readMetric r.snap.lra
  | .lraLow => readMetric r.snap.lraLow
  | .lraHigh => readMetric r.snap.lraHigh
  | .spG => readPeak db r.snap.spG
  | .tpG => readPeak db r.snap.tpG
  | .sp c => readPeak db (channelPeak r r.snap.sp c)
  | .tp c => readPeak db (channelPeak r r.snap.tp c)

/-- What RD of a selector answers: without a session only STATUS is valid (R35, R163). -/
def readSelector (sel : Selector) (db : Bool) (f : Facade) : Bool × W64 :=
  match f with
  | .uninitialized => if sel = .status then (true, statusWord .uninitialized) else (false, 0)
  | .active ph r => readSession sel db ph r

/-- RD (R163): legal in every state, changes nothing. `DB` on a selector that is no peak has no encoding and is
`E_ILLEGAL` (R69, R190). -/
def execRd (sel : Selector) (db : Bool) (s : State) : Result :=
  .next (if db && !sel.isPeak then raise .eIllegal s
    else respond (readSelector sel db s.facade).1 (readSelector sel db s.facade).2 s)

end Sys2Proof.Machine
end

