-- ==== Sys2Proof/Machine/Dispatch.lean ====
section
/-! DEFINITION. One arm per command: each calls the command's own meaning. -/

namespace Sys2Proof.Machine

def exec (i : Instr) (s : State) : Host.Outcome State Fault Refusal :=
  match i with
  | .init w0 w1 w2 => Sys2Proof.Machine.execInit w0 w1 w2 s
  | .frame xs => Sys2Proof.Machine.execFrame xs s
  | .osframe ys => Sys2Proof.Machine.execOsframe ys s
  | .osfail => Sys2Proof.Machine.execOsfail s
  | .close => Sys2Proof.Machine.execClose s
  | .reset => Sys2Proof.Machine.execReset s
  | .rd sel db => Sys2Proof.Machine.execRd sel db s

end Sys2Proof.Machine
end

