-- ==== Sys2Proof/Machine/Step.lean ====
section
/-! DEFINITION. One step: the next command of the stream, executed whole (20_memory.md R55, R56). -/

namespace Sys2Proof.Machine

/-- One step. While the next command's words have not all arrived the machine waits, unchanged (30_encoding.md R67);
an illegal command is consumed and refused with `E_ILLEGAL` (R67, R76, R79); a command is consumed and executed. -/
def step (s : State) : Host.Outcome State Fault Refusal :=
  match fetch s with
  | .incomplete => .next s
  | .illegal _ rest => .next (raise .eIllegal (s.setCommands rest))
  | .command i rest => exec i (s.setCommands rest)

/-- The state with one whole command at the head of the command stream, where `step` takes its next command: the
words of the number `w` of `nbits` bits, zeros behind. -/
def State.withFetchWord (s : State) (nbits w : Nat) : State :=
  s.setCommands (commandWords (tableWords nbits w) ++ s.commands)

end Sys2Proof.Machine
end

