-- ==== Sys2Proof/Safety.lean ====
section
/-! DEFINITION. What holds of LMC in every state a run reaches, and runs of commands, in the terms the statements use.
Each invariant names the rule of spec/ it comes from. -/

namespace Sys2Proof.Machine

/-- A property of the phase and the session record, which UNINITIALIZED has for want of a record (10_state.md R20). -/
def OnSession (p : Phase → Session → Prop) (s : State) : Prop :=
  match s.facade with
  | .uninitialized => True
  | .active ph r => p ph r

/-- The configuration and what INIT derives from it (R23, R24, R100; the ranges: R187). -/
structure ConfigInv (r : Session) : Prop where
  nch_range : 1 ≤ r.nch.toNat ∧ r.nch.toNat ≤ Config.maxCh
  rate_ok : r.rate ≠ 0 ∧ r.rate.toNat % 10 = 0
  block_len : r.blockLen = r.rate / 10
  classes_len : r.classes.length = 8
  classes_ok : classesOk r.nch.toNat r.classes = true
  panw_ok : panwOk r.dualMono r.nch r.panw = true
  pre_ok : Config.stageOk r.pre = true
  rlb_ok : Config.stageOk r.rlb = true
  weights : r.chans.map Channel.w =
    (r.classes.take r.nch.toNat).map (channelWeight r.dualMono r.nch r.panw)

/-- The frame count against `BLOCK_LEN`, the phase and `SEEN` (R26, R155). -/
structure CounterInv (ph : Phase) (r : Session) : Prop where
  nacc_lt : r.nacc.toNat < r.blockLen.toNat
  accumulating_iff : ph = .accumulating ↔ r.nacc ≠ 0
  ready_unseen : ph = .ready → r.seen = false
  running_seen : ph = .accumulating ∨ ph = .refreshed → r.seen = true

/-- One integrator (R28 a and c, R29, R127 a, R131). -/
structure IntegratorInv (w : Win) (g : Integrator) : Prop where
  cache_len : g.cache.length = Config.slots w
  pos_lt : g.pos.toNat < Config.slots w
  hist_len : g.hist.length = Config.nb
  count : g.nKept = g.hist.sum
  unfilled_zero : g.filled = false → ∀ k, g.pos.toNat ≤ k → k < Config.slots w → g.cache[k]? = some Config.zero
  unfilled_none_kept : g.filled = false → g.nKept = 0

/-- Both integrators, which take the same pushes (R110): until the 400 ms window has filled they stand at the same
position and the 3 s window has not filled either. -/
structure WindowsInv (r : Session) : Prop where
  momentary : IntegratorInv .momentary r.int0
  shortTerm : IntegratorInv .shortTerm r.int1
  in_step : r.int0.filled = false → r.int1.filled = false ∧ r.int1.pos = r.int0.pos

/-- A peak register holds a finite value that is at least `+0.0` (R30). -/
def PeakOk (p : F64) : Prop := isFinite p = true ∧ p.sign = false

/-- The greatest of a list of peaks, `+0.0` for none. -/
def maxPeak (ps : List F64) : F64 := ps.foldl (fun g p => raisePeak p g) Config.zero

/-- The peak registers (R30, R141, R142) and the true-peak flags (R31). -/
structure PeakInv (r : Session) : Prop where
  chan_count : r.chans.length = r.nch.toNat
  peaks_ok : ∀ c ∈ r.chans, PeakOk c.spk ∧ PeakOk c.tpk
  sample_global : r.spkG = maxPeak (r.chans.map Channel.spk)
  true_global : r.tpkG = maxPeak (r.chans.map Channel.tpk)
  sample_off : r.spEn = false ∨ r.seen = false → r.spkG = Config.zero
  true_off : r.osSeen = false → r.tpkG = Config.zero
  true_disabled : r.tpEn = false → r.osSeen = false ∧ r.tpFail = false

/-- The published loudness metrics are those of the integrators as they stand, because only a block cycle moves them
and every block cycle publishes (R132, R164). -/
structure PublishedInv (r : Session) : Prop where
  m : r.snap.m = (windowAvg .momentary r.int0).map loud
  s : r.snap.s = (windowAvg .shortTerm r.int1).map loud
  i : r.snap.i = integrated r.int0
  lra : r.snap.lra = (lraCompute r.int1).map (fun t => t.1)
  lraLow : r.snap.lraLow = (lraCompute r.int1).map (fun t => t.2.1)
  lraHigh : r.snap.lraHigh = (lraCompute r.int1).map (fun t => t.2.2)

/-- A run of commands: the state after executing them one after another, if every one answers a next state. -/
def execs : List Instr → State → Option State
  | [], s => some s
  | i :: is, s =>
    match exec i s with
    | .next t => execs is t
    | .fault _ => none
    | .refused _ => none

/-- The command is an RD. -/
def isRead : Instr → Bool
  | .rd _ _ => true
  | .init _ _ _ => false
  | .frame _ => false
  | .osframe _ => false
  | .osfail => false
  | .close => false
  | .reset => false

/-- The command streams samples or reads: FRAME, OSFRAME or RD. -/
def isStreaming : Instr → Bool
  | .frame _ => true
  | .osframe _ => true
  | .rd _ _ => true
  | .init _ _ _ => false
  | .osfail => false
  | .close => false
  | .reset => false

/-- What a frame brings to channel `k` of `nch`: its sample, when the frame is one that a live session accepts
(R144, R158). -/
def deliveredTo (nch k : Nat) (xs : List F64) : Option F64 :=
  if xs.length = nch ∧ allFinite xs = true then xs[k]? else none

/-- The raw samples of channel `k` that a run's FRAME commands deliver. -/
def rawSamples (nch k : Nat) : List Instr → List F64 :=
  List.filterMap fun
    | .frame xs => deliveredTo nch k xs
    | .osframe _ => none
    | .init _ _ _ => none
    | .osfail => none
    | .close => none
    | .reset => none
    | .rd _ _ => none

/-- The oversampled samples of channel `k` that a run's OSFRAME commands deliver. -/
def oversampledSamples (nch k : Nat) : List Instr → List F64 :=
  List.filterMap fun
    | .osframe ys => deliveredTo nch k ys
    | .frame _ => none
    | .init _ _ _ => none
    | .osfail => none
    | .close => none
    | .reset => none
    | .rd _ _ => none

/-- `p` is the greatest magnitude of the samples, `+0.0` when none is above it (R30, R140). -/
def IsPeakOf (p : F64) (xs : List F64) : Prop :=
  (∀ x ∈ xs, fLe (fAbs x) p = true) ∧ (p = Config.zero ∨ ∃ x ∈ xs, p = fAbs x)

/-- From this magnitude on, in units of `2^-1074`, rounding to nearest gives an infinity: half a step beyond the largest
finite value, `2^1024 - 2^970`. -/
def overflowUnits : Nat := 2 ^ 2098 - 2 ^ 2044

/-- `y` is the exact value `v / d`, in units of `2^-1074` with its sign, rounded to nearest, ties to even (R11, R15): no
finite value is nearer, an equally near one leaves the even last bit to `y`, a magnitude past the range gives the
infinity, and the sign is that of the exact value, also where it rounds to zero. -/
structure RoundsTo (y : F64) (v : Int) (d : Nat) : Prop where
  overflow : overflowUnits * d ≤ v.natAbs → y = signedInf (decide (v < 0))
  finite : v.natAbs < overflowUnits * d → isFinite y = true
  nearest : v.natAbs < overflowUnits * d → ∀ z : F64, isFinite z = true →
    (v - signedUnits y * d).natAbs ≤ (v - signedUnits z * d).natAbs
  even : v.natAbs < overflowUnits * d → ∀ z : F64, isFinite z = true → signedUnits z ≠ signedUnits y →
    (v - signedUnits y * d).natAbs = (v - signedUnits z * d).natAbs → y.bits.getLsbD 0 = false
  sign : v ≠ 0 → y.sign = decide (v < 0)

/-- Block powers pushed one after another (42_integrator.md R111). -/
def pushAll (w : Win) (ps : List F64) (g : Integrator) : Integrator :=
  ps.foldl (fun g p => pushPower w p g) g

/-- Block powers pushed and gated one after another, as block cycles do (R103). -/
def cycleAll (w : Win) (ps : List F64) (g : Integrator) : Integrator :=
  ps.foldl (fun g p => gateUpdate w (pushPower w p g)) g

/-- A session without what the true-peak path writes: `TPK`, `TPK_G`, `OSSEEN`, `TP_FAIL` and the published true peaks. -/
def withoutTruePeak (r : Session) : Session :=
  { r with
    chans := r.chans.map (fun c => { c with tpk := Config.zero })
    tpkG := Config.zero
    osSeen := false
    tpFail := false
    snap := { r.snap with tp := [], tpG := none } }

/-- The facade without what the true-peak path writes. -/
def facadeWithoutTruePeak : Facade → Facade
  | .uninitialized => .uninitialized
  | .active ph r => .active ph (withoutTruePeak r)

end Sys2Proof.Machine
end

