-- ==== Sys2Proof/Certificates/Slice0/Obligations.lean ====
section
/-! DEFINITION. The statements for the provers. Each docstring names the rule of spec/ it formalises. -/

open Sys2Proof Sys2Proof.Machine

/-- Decode and encode agree (30_encoding.md R66, R68, R69, R71 to R73, R79): the decoder reads every well-formed
command back from its words, with every operand at every value, and leaves the stream behind them. -/
def Obligations.DecodeEncodeRoundTrip : Prop :=
  ∀ (i : Instr) (rest : List W64), wellFormed i = true → decode (encode i ++ rest) = .command i rest

/-- The other direction (R66, R76): words that decode to a command are that command's encoding, so that no reserved
bit is ignored. -/
def Obligations.EncodeDecodeCanonical : Prop :=
  ∀ (ws rest : List W64) (i : Instr), decode ws = .command i rest → wellFormed i = true ∧ ws = encode i ++ rest

/-- R67, on the machine: a command occupies `1 + len` words whatever it is, `len` read from its header alone. That
the machine waits by a step that leaves it unchanged is the model's (log entry 3). -/
def Obligations.StepConsumesDeclaredLength : Prop :=
  ∀ (s : State) (h : W64) (ws : List W64), s.commands = h :: ws →
    (ws.length < (h.extractLsb' 40 8).toNat → step s = .next s) ∧
    ((h.extractLsb' 40 8).toNat ≤ ws.length →
      ∃ t, step s = .next t ∧ t.commands = ws.drop (h.extractLsb' 40 8).toNat)

/-- R69: a header whose payload has arrived is refused as illegal exactly when one of the static conditions fails;
the machine then consumes the command and answers `E_ILLEGAL`. FRAME and OSFRAME take any `len` here. -/
def Obligations.IllegalIffNotWellFormed : Prop :=
  ∀ (s : State) (h : W64) (ws : List W64), s.commands = h :: ws → (h.extractLsb' 40 8).toNat ≤ ws.length →
    let op := (h.extractLsb' 56 8).toNat
    let sel := h.extractLsb' 48 8
    let len := (h.extractLsb' 40 8).toNat
    let flg := h.extractLsb' 32 8
    let headerOk : Prop :=
      (1 ≤ op ∧ op ≤ 7) ∧ h.extractLsb' 0 32 = 0 ∧ h.extractLsb' 33 7 = 0 ∧
        (op ≠ 7 → sel = 0 ∧ flg = 0) ∧ (op = 1 → len = 3) ∧
        (op = 4 ∨ op = 5 ∨ op = 6 ∨ op = 7 → len = 0) ∧
        (op = 7 → ∃ x : Selector, x.code = sel ∧ (h.getLsbD 32 = true → x.isPeak = true))
    (headerOk ↔ ∃ i, decode s.commands = .command i (ws.drop len)) ∧
    (¬ headerOk → step s = .next
      { s with commands := ws.drop len, responses := s.responses ++ [⟨.eIllegal, false, 0⟩] })

/-- R70: the `match`/`mask` pair of every command, on a header and the payload it announces. -/
def Obligations.HeaderSelectsByMatchAndMask : Prop :=
  ∀ (h : W64) (pay : List W64), pay.length = (h.extractLsb' 40 8).toNat →
    ((∃ w0 w1 w2, decodeCommand h pay = .ok (.init w0 w1 w2)) ↔ h &&& 0xFFFFFFFFFFFFFFFF = 0x0100030000000000) ∧
    ((∃ xs, decodeCommand h pay = .ok (.frame xs)) ↔ h &&& 0xFFFF00FFFFFFFFFF = 0x0200000000000000) ∧
    ((∃ ys, decodeCommand h pay = .ok (.osframe ys)) ↔ h &&& 0xFFFF00FFFFFFFFFF = 0x0300000000000000) ∧
    (decodeCommand h pay = .ok .osfail ↔ h &&& 0xFFFFFFFFFFFFFFFF = 0x0400000000000000) ∧
    (decodeCommand h pay = .ok .close ↔ h &&& 0xFFFFFFFFFFFFFFFF = 0x0500000000000000) ∧
    (decodeCommand h pay = .ok .reset ↔ h &&& 0xFFFFFFFFFFFFFFFF = 0x0600000000000000) ∧
    ((∃ sel db, decodeCommand h pay = .ok (.rd sel db)) ↔
      h &&& 0xFF00FFFEFFFFFFFF = 0x0700000000000000 ∧
        ∃ sel : Selector, sel.code = h.extractLsb' 48 8 ∧ (h.getLsbD 32 = true → sel.isPeak = true))

/-- R82: the worked encodings decode to the commands they stand for. -/
def Obligations.WorkedEncodingsDecode : Prop :=
  decode [0x0100030000000000, 0x000003020000BB80, 0, 0] = .command (.init 0x000003020000BB80 0 0) [] ∧
  decode [0x0200020000000000, 0x3FF0000000000000, 0xBFE0000000000000] =
    .command (.frame [⟨0x3FF0000000000000⟩, ⟨0xBFE0000000000000⟩]) [] ∧
  decode [0x0741000100000000] = .command (.rd (.sp 1) true) [] ∧
  decode [0x0710000000000000] = .command (.rd .m false) [] ∧
  decode [0x0500000000000000] = .command .close []

/-- A step runs the decoded command (20_memory.md R55): its words leave the stream and `exec` gives the rest. -/
def Obligations.StepRunsDecodedCommand : Prop :=
  ∀ (s : State) (i : Instr) (rest : List W64), decode s.commands = .command i rest →
    step s = exec i { s with commands := rest }

/-- An illegal command (R76, R79): its words leave the stream, the response is `E_ILLEGAL`, nothing else changes. -/
def Obligations.StepRefusesIllegalCommand : Prop :=
  ∀ (s : State) (why : HeaderFault) (rest : List W64), decode s.commands = .illegal why rest →
    step s = .next { s with commands := rest, responses := s.responses ++ [⟨.eIllegal, false, 0⟩] }

/-- R74, R75: every command, in every state, answers a next state with exactly one response more; only RD carries a
result, and none comes with an error; the stream is not touched by the command itself. -/
def Obligations.EveryCommandAnswersOnce : Prop :=
  ∀ (i : Instr) (s : State), ∃ t r, exec i s = .next t ∧ t.responses = s.responses ++ [r] ∧
    t.commands = s.commands ∧ (r.code ≠ .ok → r.valid = false) ∧ (r.valid = false → r.data = 0) ∧
    ((∀ sel db, i ≠ .rd sel db) → r.valid = false)

/-- 60_exceptions.md R186: a command that raises writes no register, emits no event and leaves its code behind,
nothing else. -/
def Obligations.RefusedCommandChangesNothing : Prop :=
  ∀ (i : Instr) (s t : State) (r : Response), exec i s = .next t → t.responses = s.responses ++ [r] →
    r.code ≠ .ok → t = { s with responses := s.responses ++ [⟨r.code, false, 0⟩] }

/-- R198, R205: there is no lockup state. From any state RESET brings the facade back to what it is after hardware
reset. That every step answers a next state, whatever the machine holds, includes the machine that still waits for
words: that it waits by a step which leaves it unchanged is the model's choice (log entry 3). -/
def Obligations.NoLockup : Prop :=
  (∀ s : State, ∃ t, step s = .next t) ∧
  ∀ s : State, ∃ t, exec .reset s = .next t ∧ t.facade = State.reset.facade

/-- R188: in CLOSED everything but RD and RESET answers `E_TERMINAL`, whatever its operands, and nothing changes; RD
and RESET are accepted. -/
def Obligations.ClosedRefusesAllButRdAndReset : Prop :=
  ∀ (s : State) (r : Session), s.facade = .active .closed r →
    (∀ w0 w1 w2, exec (.init w0 w1 w2) s = .next { s with responses := s.responses ++ [⟨.eTerminal, false, 0⟩] }) ∧
    (∀ xs, exec (.frame xs) s = .next { s with responses := s.responses ++ [⟨.eTerminal, false, 0⟩] }) ∧
    (∀ ys, exec (.osframe ys) s = .next { s with responses := s.responses ++ [⟨.eTerminal, false, 0⟩] }) ∧
    exec .osfail s = .next { s with responses := s.responses ++ [⟨.eTerminal, false, 0⟩] } ∧
    exec .close s = .next { s with responses := s.responses ++ [⟨.eTerminal, false, 0⟩] } ∧
    (∀ sel db, (db = true → sel.isPeak = true) →
      ∃ v d, exec (.rd sel db) s = .next { s with responses := s.responses ++ [⟨.ok, v, d⟩] }) ∧
    exec .reset s = .next { s with facade := .uninitialized, responses := s.responses ++ [⟨.ok, false, 0⟩] }

/-- R191: without a session FRAME, OSFRAME, OSFAIL and CLOSE answer `E_SEQ`; so does INIT in READY, ACCUMULATING and
REFRESHED. Nothing changes. -/
def Obligations.OutOfSequenceAnswersESeq : Prop :=
  (∀ s : State, s.facade = .uninitialized →
    (∀ xs, exec (.frame xs) s = .next { s with responses := s.responses ++ [⟨.eSeq, false, 0⟩] }) ∧
    (∀ ys, exec (.osframe ys) s = .next { s with responses := s.responses ++ [⟨.eSeq, false, 0⟩] }) ∧
    exec .osfail s = .next { s with responses := s.responses ++ [⟨.eSeq, false, 0⟩] } ∧
    exec .close s = .next { s with responses := s.responses ++ [⟨.eSeq, false, 0⟩] }) ∧
  (∀ (s : State) (ph : Phase) (r : Session), s.facade = .active ph r → ph ≠ .closed → ∀ w0 w1 w2,
    exec (.init w0 w1 w2) s = .next { s with responses := s.responses ++ [⟨.eSeq, false, 0⟩] })

/-- R155: what `ST` becomes. A command that raises leaves it; of the accepted ones INIT gives READY, FRAME gives
REFRESHED when it completes a block and ACCUMULATING otherwise, CLOSE gives CLOSED, RESET gives UNINITIALIZED, and
OSFRAME, OSFAIL and RD leave it. -/
def Obligations.StateTransitionTable : Prop :=
  ∀ (i : Instr) (s t : State) (a : Response), exec i s = .next t → t.responses = s.responses ++ [a] →
    (a.code ≠ .ok → t.facade.st = s.facade.st) ∧
    (a.code = .ok →
      match i with
      | .init _ _ _ => s.facade.st = .uninitialized ∧ t.facade.st = .ready
      | .frame _ => ∃ ph r, s.facade = .active ph r ∧ ph ≠ .closed ∧
          t.facade.st = if r.nacc + 1 = r.blockLen then .refreshed else .accumulating
      | .osframe _ => s.facade.st ≠ .uninitialized ∧ s.facade.st ≠ .closed ∧ t.facade.st = s.facade.st
      | .osfail => s.facade.st ≠ .uninitialized ∧ s.facade.st ≠ .closed ∧ t.facade.st = s.facade.st
      | .close => s.facade.st ≠ .uninitialized ∧ s.facade.st ≠ .closed ∧ t.facade.st = .closed
      | .reset => t.facade.st = .uninitialized
      | .rd _ _ => t.facade.st = s.facade.st)

/-- 45_facade.md R160, over runs: once CLOSED, no command but RESET changes anything of the session or of `ST`. -/
def Obligations.FrozenAfterClose : Prop :=
  ∀ (is : List Instr) (s t : State) (r : Session), s.facade = .active .closed r → (∀ i ∈ is, i ≠ .reset) →
    execs is s = some t → t.facade = s.facade ∧ t.events = s.events

/-- R157: RESET, in every state: the session is destroyed, nothing is flushed and no event is emitted; the facade is
that of the state after hardware reset. -/
def Obligations.ResetFollowsItsRule : Prop :=
  encode .reset = [0x0600000000000000] ∧
  ∀ s : State, exec .reset s =
    .next { s with facade := .uninitialized, responses := s.responses ++ [⟨.ok, false, 0⟩] } ∧
    State.reset.facade = .uninitialized

/-- R205, R206: after the hardware reset there is no session and the decoder is at a command boundary; what the host
sends next is decoded from its first word. That words not yet consumed are dropped is the model's choice (log entry
11). -/
def Obligations.HardwareResetClearsTheSession : Prop :=
  ∀ (s : State) (ws : List W64), (hardwareReset s).facade = State.reset.facade ∧
    (hardwareReset s).commands = [] ∧ fetch (hostSend ws (hardwareReset s)) = decode ws

/-- 70_reset_and_hazards.md R206: in UNINITIALIZED, STATUS reads zero with `valid = 1` and every other selector
reads `valid = 0`, `data = 0`, with and without `DB`. -/
def Obligations.UninitializedReads : Prop :=
  ∀ (s : State) (sel : Selector) (db : Bool), s.facade = .uninitialized → (db = true → sel.isPeak = true) →
    exec (.rd sel db) s = .next { s with responses := s.responses ++ [⟨.ok, decide (sel = .status), 0⟩] }

/-- 45_facade.md R156 (with R187, 10_state.md R24, R38, R100, R101): INIT. In CLOSED it answers `E_TERMINAL`, in any
other session `E_SEQ`. In UNINITIALIZED an invalid payload answers `E_CONFIG`; a valid one creates the session of
R38 when `COEF` has the rate, and answers `E_CONFIG` when it has not. -/
def Obligations.InitFollowsItsRule : Prop :=
  (∀ w0 w1 w2, encode (.init w0 w1 w2) = [0x0100030000000000, w0, w1, w2]) ∧
  (∀ (s : State) (ph : Phase) (r : Session) (w0 w1 w2 : W64), s.facade = .active ph r →
    exec (.init w0 w1 w2) s =
      .next { s with responses := s.responses ++ [⟨if ph = .closed then .eTerminal else .eSeq, false, 0⟩] }) ∧
  ∀ (s : State) (w0 w1 w2 : W64), s.facade = .uninitialized →
    let rate : BitVec 32 := w0.extractLsb' 0 32
    let nch : BitVec 8 := w0.extractLsb' 32 8
    let dm := w0.getLsbD 42
    let panw : F64 := ⟨w1⟩
    let cls : Nat → BitVec 8 := fun c => w2.extractLsb' (8 * c) 8
    let valid : Prop :=
      w0.extractLsb' 43 21 = 0 ∧ rate ≠ 0 ∧ rate.toNat % 10 = 0 ∧ 1 ≤ nch.toNat ∧ nch.toNat ≤ 8 ∧
      (∀ c, c < 8 → (c < nch.toNat → (cls c).toNat ≤ 1) ∧ (nch.toNat ≤ c → cls c = 0)) ∧
      (dm = true → nch = 1 → isFinite panw = true ∧ fGt panw Config.zero = true)
    (¬ valid → exec (.init w0 w1 w2) s = .next { s with responses := s.responses ++ [⟨.eConfig, false, 0⟩] }) ∧
    (valid → exec (.init w0 w1 w2) s = .next
      (match Config.coef rate with
      | none => { s with responses := s.responses ++ [⟨.eConfig, false, 0⟩] }
      | some stages =>
        { s with
          responses := s.responses ++ [⟨.ok, false, 0⟩]
          facade := .active .ready
            { rate := rate, nch := nch, spEn := w0.getLsbD 40, tpEn := w0.getLsbD 41, dualMono := dm, panw := panw
              classes := [cls 0, cls 1, cls 2, cls 3, cls 4, cls 5, cls 6, cls 7]
              blockLen := BitVec.ofNat 32 (rate.toNat / 10), pre := stages.1, rlb := stages.2
              chans := (List.range nch.toNat).map (fun c =>
                { w := if dm = true ∧ nch = 1 then panw else if cls c = 1 then ⟨0x3FF699C0F7E86E10⟩
                    else ⟨0x3FF0000000000000⟩
                  x := ⟨Config.zero, Config.zero, Config.zero⟩
                  y := ⟨Config.zero, Config.zero, Config.zero⟩
                  z := ⟨Config.zero, Config.zero, Config.zero⟩
                  acc := Config.zero, spk := Config.zero, tpk := Config.zero })
              nacc := 0
              int0 :=
                { cache := List.replicate 4 Config.zero, pos := 0, sum := Config.zero, filled := false
                  relThr := Config.zero, sumKept := Config.zero, nKept := 0, hist := List.replicate 801 0 }
              int1 :=
                { cache := List.replicate 30 Config.zero, pos := 0, sum := Config.zero, filled := false
                  relThr := Config.zero, sumKept := Config.zero, nKept := 0, hist := List.replicate 801 0 }
              spkG := Config.zero, tpkG := Config.zero, seen := false, osSeen := false, tpFail := false
              snap :=
                { m := none, s := none, i := none, lra := none, lraLow := none, lraHigh := none
                  sp := List.replicate nch.toNat none, spG := none
                  tp := List.replicate nch.toNat none, tpG := none } } }))

/-- 45_facade.md R158: FRAME. Without a session it answers `E_SEQ`, in CLOSED `E_TERMINAL`. In a live session a
wrong length answers `E_ILLEGAL` whatever the samples, a sample that is not finite answers `E_DATA`, and an accepted
frame goes through the peak detector, the filters and the accumulators, counts, and closes the block when it is its
last; the events are the request (when true peak is on and has not failed) and then `EV_REFRESH`. -/
def Obligations.FrameFollowsItsRule : Prop :=
  (∀ xs : List F64, xs.length ≤ 255 →
    encode (.frame xs) = BitVec.ofNat 64 (2 * 2 ^ 56 + xs.length * 2 ^ 40) :: xs.map F64.bits) ∧
  (∀ (s : State) (xs : List F64), s.facade = .uninitialized →
    exec (.frame xs) s = .next { s with responses := s.responses ++ [⟨.eSeq, false, 0⟩] }) ∧
  (∀ (s : State) (r : Session) (xs : List F64), s.facade = .active .closed r →
    exec (.frame xs) s = .next { s with responses := s.responses ++ [⟨.eTerminal, false, 0⟩] }) ∧
  ∀ (s : State) (ph : Phase) (r : Session) (xs : List F64), s.facade = .active ph r → ph ≠ .closed →
    (xs.length ≠ r.nch.toNat →
      exec (.frame xs) s = .next { s with responses := s.responses ++ [⟨.eIllegal, false, 0⟩] }) ∧
    (xs.length = r.nch.toNat → (∃ x ∈ xs, isFinite x = false) →
      exec (.frame xs) s = .next { s with responses := s.responses ++ [⟨.eData, false, 0⟩] }) ∧
    (xs.length = r.nch.toNat → (∀ x ∈ xs, isFinite x = true) →
      let r1 : Session :=
        { r with
          chans := List.zipWith (ingestSample r.spEn r.pre r.rlb) xs r.chans
          spkG := if r.spEn = true then xs.foldl (fun g x => if fGt (fAbs x) g = true then fAbs x else g) r.spkG
            else r.spkG
          seen := true
          nacc := r.nacc + 1 }
      exec (.frame xs) s = .next
        { s with
          facade := if r.nacc + 1 = r.blockLen then .active .refreshed (blockCycle r.blockLen.toNat r1)
            else .active .accumulating r1
          responses := s.responses ++ [⟨.ok, false, 0⟩]
          events := s.events ++ (if r.tpEn = true ∧ r.tpFail = false then [.rsreq xs 4] else []) ++
            (if r.nacc + 1 = r.blockLen then [.refresh] else []) })

/-- R91, R102, R141: one raw sample on its channel. The peak takes the raw sample, the pre-filter comes before the
RLB filter, the accumulator takes the square of the K-weighted sample, and nothing else of the channel changes. -/
def Obligations.SampleRunsPeakFilterAccumulate : Prop :=
  ∀ (spEn : Bool) (pre rlb : Stage) (x : F64) (c : Channel),
    let y0 := biquad pre ⟨x, c.x.h0, c.x.h1⟩ c.y.h0 c.y.h1
    let z0 := biquad rlb ⟨y0, c.y.h0, c.y.h1⟩ c.z.h0 c.z.h1
    ingestSample spEn pre rlb x c =
      { w := c.w
        x := ⟨x, c.x.h0, c.x.h1⟩
        y := ⟨y0, c.y.h0, c.y.h1⟩
        z := ⟨z0, c.z.h0, c.z.h1⟩
        acc := fAdd c.acc (fMul z0 z0)
        spk := if spEn = true ∧ fGt (fAbs x) c.spk = true then fAbs x else c.spk
        tpk := c.tpk }

/-- R92: the five-term sum of a stage, in its association, each operation rounded once; `a0` takes no part. -/
def Obligations.BiquadAssociation : Prop :=
  ∀ (b0 b1 b2 a0 a1 a2 u0 u1 u2 v1 v2 : F64),
    biquad ⟨b0, b1, b2, a0, a1, a2⟩ ⟨u0, u1, u2⟩ v1 v2 =
      fSub (fSub (fAdd (fAdd (fMul b0 u0) (fMul b1 u1)) (fMul b2 u2)) (fMul a1 v1)) (fMul a2 v2)

/-- R97: the registers of a channel after a frame depend on that channel's own registers and sample alone. -/
def Obligations.ChannelsAreIndependent : Prop :=
  ∀ (r1 r2 : Session) (xs1 xs2 : List F64) (k : Nat), r1.spEn = r2.spEn → r1.pre = r2.pre → r1.rlb = r2.rlb →
    xs1.length = r1.chans.length → xs2.length = r2.chans.length → k < xs1.length → k < xs2.length →
    r1.chans[k]? = r2.chans[k]? → xs1[k]? = xs2[k]? →
    (ingestFrame xs1 r1).chans[k]? = (ingestFrame xs2 r2).chans[k]? ∧
    ((ingestFrame xs1 r1).chans[k]?).isSome = true

/-- 41_channel_weighting.md R103, R104, R161: the block cycle. The block power is the sum, in ascending channel
order from `+0.0`, of each weight times the channel's mean square; both integrators take it, both pushes come before
both gate updates, the accumulators and the count are cleared, and the snapshot is published from the result. -/
def Obligations.BlockCycleFollowsItsRule : Prop :=
  ∀ (n : Nat) (r : Session),
    let p := r.chans.foldl (fun p c => fAdd p (fMul c.w (fDiv c.acc (fOfNat n)))) Config.zero
    let r1 : Session :=
      { r with
        chans := r.chans.map (fun c => { c with acc := Config.zero })
        nacc := 0
        int0 := gateUpdate .momentary (pushPower .momentary p r.int0)
        int1 := gateUpdate .shortTerm (pushPower .shortTerm p r.int1) }
    blockCycle n r = publish r1

/-- R148, R164: the publish, metric by metric, from the live state. -/
def Obligations.PublishFollowsItsRule : Prop :=
  ∀ r : Session,
    let spv := r.spEn = true ∧ r.seen = true
    let tpv := r.tpEn = true ∧ r.tpFail = false ∧ r.osSeen = true
    (publish r = { r with snap := (publish r).snap }) ∧
    (publish r).snap.m =
      (if r.int0.filled = true then some (loud (fDiv r.int0.sum (fOfNat 4))) else none) ∧
    (publish r).snap.s =
      (if r.int1.filled = true then some (loud (fDiv r.int1.sum (fOfNat 30))) else none) ∧
    (publish r).snap.i = integrated r.int0 ∧
    (lraCompute r.int1 = none → (publish r).snap.lra = none ∧ (publish r).snap.lraLow = none ∧
      (publish r).snap.lraHigh = none) ∧
    (∀ d lo hi, lraCompute r.int1 = some (d, lo, hi) → (publish r).snap.lra = some d ∧
      (publish r).snap.lraLow = some lo ∧ (publish r).snap.lraHigh = some hi) ∧
    ((publish r).snap.sp.length = r.chans.length ∧ (publish r).snap.tp.length = r.chans.length) ∧
    (∀ (k : Nat) (c : Channel), r.chans[k]? = some c →
      (publish r).snap.sp[k]? = some (if spv then some c.spk else none) ∧
      (publish r).snap.tp[k]? = some (if tpv then some c.tpk else none)) ∧
    (publish r).snap.spG = (if spv then some r.spkG else none) ∧
    (publish r).snap.tpG = (if tpv then some r.tpkG else none)

/-- 45_facade.md R159: CLOSE. Without a session it answers `E_SEQ`, in CLOSED `E_TERMINAL`. In a live session a
partial block is flushed with the frames it has (R106) and emits `EV_REFRESH`; without one the snapshot is published
from the state as it stands; either way the session is CLOSED and `EV_CLOSED` is the last event. That a CLOSE in READY
publishes what R144, R148 and R164 give, the true peaks of an accepted OSFRAME included, where R159 itself says that
everything is `none`, is the model's choice (log entry 21). -/
def Obligations.CloseFollowsItsRule : Prop :=
  encode .close = [0x0500000000000000] ∧
  (∀ s : State, s.facade = .uninitialized →
    exec .close s = .next { s with responses := s.responses ++ [⟨.eSeq, false, 0⟩] }) ∧
  (∀ (s : State) (r : Session), s.facade = .active .closed r →
    exec .close s = .next { s with responses := s.responses ++ [⟨.eTerminal, false, 0⟩] }) ∧
  ∀ (s : State) (ph : Phase) (r : Session), s.facade = .active ph r → ph ≠ .closed →
    (r.nacc ≠ 0 → exec .close s = .next
      { s with
        facade := .active .closed (blockCycle r.nacc.toNat r)
        responses := s.responses ++ [⟨.ok, false, 0⟩]
        events := s.events ++ [.refresh, .closed] }) ∧
    (r.nacc = 0 → exec .close s = .next
      { s with
        facade := .active .closed (publish r)
        responses := s.responses ++ [⟨.ok, false, 0⟩]
        events := s.events ++ [.closed] })

/-- 44_peak.md R144: OSFRAME. Its checks are FRAME's, in the same order; an accepted frame raises the true peaks and
sets `OSSEEN` when true peak is on and has not failed, and does nothing otherwise; no event is emitted and `ST`
stays. -/
def Obligations.OsframeFollowsItsRule : Prop :=
  (∀ ys : List F64, ys.length ≤ 255 →
    encode (.osframe ys) = BitVec.ofNat 64 (3 * 2 ^ 56 + ys.length * 2 ^ 40) :: ys.map F64.bits) ∧
  (∀ (s : State) (ys : List F64), s.facade = .uninitialized →
    exec (.osframe ys) s = .next { s with responses := s.responses ++ [⟨.eSeq, false, 0⟩] }) ∧
  (∀ (s : State) (r : Session) (ys : List F64), s.facade = .active .closed r →
    exec (.osframe ys) s = .next { s with responses := s.responses ++ [⟨.eTerminal, false, 0⟩] }) ∧
  ∀ (s : State) (ph : Phase) (r : Session) (ys : List F64), s.facade = .active ph r → ph ≠ .closed →
    (ys.length ≠ r.nch.toNat →
      exec (.osframe ys) s = .next { s with responses := s.responses ++ [⟨.eIllegal, false, 0⟩] }) ∧
    (ys.length = r.nch.toNat → (∃ y ∈ ys, isFinite y = false) →
      exec (.osframe ys) s = .next { s with responses := s.responses ++ [⟨.eData, false, 0⟩] }) ∧
    (ys.length = r.nch.toNat → (∀ y ∈ ys, isFinite y = true) →
      exec (.osframe ys) s = .next
        { s with
          facade := if r.tpEn = true ∧ r.tpFail = false then
              .active ph
                { r with
                  chans := List.zipWith (fun y c =>
                    { c with tpk := if fGt (fAbs y) c.tpk = true then fAbs y else c.tpk }) ys r.chans
                  tpkG := ys.foldl (fun g y => if fGt (fAbs y) g = true then fAbs y else g) r.tpkG
                  osSeen := true }
            else s.facade
          responses := s.responses ++ [⟨.ok, false, 0⟩] })

/-- 44_peak.md R146: OSFAIL. Without a session it answers `E_SEQ`, in CLOSED `E_TERMINAL`. In a live session it sets
`TP_FAIL` when true peak is enabled and changes nothing else, the published snapshot included. With `TP_FAIL` set,
true peak reads unavailable after every publish, STATUS bit 7 reads 1, and the path is off for FRAME and OSFRAME. -/
def Obligations.OsfailFollowsItsRule : Prop :=
  encode .osfail = [0x0400000000000000] ∧
  (∀ r : Session, r.tpFail = true →
    (publish r).snap.tpG = none ∧ (publish r).snap.tp = List.replicate r.chans.length none ∧ tpActive r = false ∧
    ∀ ph, (statusWord (.active ph r)).getLsbD 7 = true) ∧
  (∀ s : State, s.facade = .uninitialized →
    exec .osfail s = .next { s with responses := s.responses ++ [⟨.eSeq, false, 0⟩] }) ∧
  (∀ (s : State) (r : Session), s.facade = .active .closed r →
    exec .osfail s = .next { s with responses := s.responses ++ [⟨.eTerminal, false, 0⟩] }) ∧
  ∀ (s : State) (ph : Phase) (r : Session), s.facade = .active ph r → ph ≠ .closed →
    exec .osfail s = .next
      { s with
        facade := .active ph { r with tpFail := r.tpFail || r.tpEn }
        responses := s.responses ++ [⟨.ok, false, 0⟩] }

/-- R34, R35, R163: RD. Its word holds the number R35 gives the selector, and `DB` in bit 32; the peak selectors are
those numbered 0x20, 0x21, 0x40 to 0x47 and 0x60 to 0x67. In a session it answers selector by selector; `DB` is set
only with a peak selector; nothing but the response changes. -/
def Obligations.RdFollowsItsRule : Prop :=
  (∀ (sel : Selector) (db : Bool),
    let number : Nat :=
      match sel with
      | .status => 0x00
      | .cfg0 => 0x01
      | .cfgPanw => 0x02
      | .cfgClass => 0x03
      | .m => 0x10
      | .s => 0x11
      | .i => 0x12
      | .lra => 0x13
      | .lraLow => 0x14
      | .lraHigh => 0x15
      | .spG => 0x20
      | .tpG => 0x21
      | .sp c => 0x40 + c.val
      | .tp c => 0x60 + c.val
    encode (.rd sel db) = [BitVec.ofNat 64 (7 * 2 ^ 56 + number * 2 ^ 48 + db.toNat * 2 ^ 32)] ∧
    sel.code.toNat = number ∧
    (sel.isPeak = true ↔
      number = 0x20 ∨ number = 0x21 ∨ (0x40 ≤ number ∧ number ≤ 0x47) ∨ (0x60 ≤ number ∧ number ≤ 0x67))) ∧
  ∀ (s : State) (ph : Phase) (r : Session) (sel : Selector) (db : Bool), s.facade = .active ph r →
    (db = true → sel.isPeak = true) →
    let metric : Option F64 → Bool × W64 := fun v =>
      match v with
      | none => (false, 0)
      | some a => (true, a.bits)
    let peak : Option F64 → Bool × W64 := fun v =>
      match v with
      | none => (false, 0)
      | some p => (true, (if db = true then peakDb p else p).bits)
    let answer : Bool × W64 :=
      match sel with
      | .status => (true, statusWord s.facade)
      | .cfg0 => (true, BitVec.ofNat 64 (r.rate.toNat + 2 ^ 32 * r.nch.toNat + 2 ^ 40 * r.spEn.toNat +
          2 ^ 41 * r.tpEn.toNat + 2 ^ 42 * r.dualMono.toNat))
      | .cfgPanw => (true, r.panw.bits)
      | .cfgClass => (true, packClasses r.classes)
      | .m => metric r.snap.m
      | .s => metric r.snap.s
      | .i => metric r.snap.i
      | .lra => metric r.snap.lra
      | .lraLow => metric r.snap.lraLow
      | .lraHigh => metric r.snap.lraHigh
      | .spG => peak r.snap.spG
      | .tpG => peak r.snap.tpG
      | .sp c => if r.nch.toNat ≤ c.val then (false, 0) else peak (r.snap.sp.getD c.val none)
      | .tp c => if r.nch.toNat ≤ c.val then (false, 0) else peak (r.snap.tp.getD c.val none)
    exec (.rd sel db) s = .next { s with responses := s.responses ++ [⟨.ok, answer.1, answer.2⟩] }

/-- 10_state.md R33: the fields of STATUS in a session, and the whole word without one. -/
def Obligations.StatusWordFields : Prop :=
  statusWord .uninitialized = 0 ∧
  ∀ (ph : Phase) (r : Session),
    let w := statusWord (.active ph r)
    (w.extractLsb' 0 3).toNat =
      (match ph with
      | .ready => 1
      | .accumulating => 2
      | .refreshed => 3
      | .closed => 4) ∧
    w.getLsbD 3 = false ∧ w.getLsbD 4 = r.spEn ∧ w.getLsbD 5 = r.tpEn ∧ w.getLsbD 6 = r.dualMono ∧
    w.getLsbD 7 = r.tpFail ∧ w.getLsbD 8 = r.int0.filled ∧ w.getLsbD 9 = r.int1.filled ∧ w.getLsbD 10 = r.seen ∧
    w.getLsbD 11 = r.osSeen ∧ w.extractLsb' 12 52 = 0

/-- R34, R73: CFG_CLASS reads back the class word INIT was given, byte `c` in bits 8c+7 : 8c. -/
def Obligations.ClassWordReadsBack : Prop :=
  ∀ w2 : W64, packClasses [w2.extractLsb' 0 8, w2.extractLsb' 8 8, w2.extractLsb' 16 8, w2.extractLsb' 24 8,
    w2.extractLsb' 32 8, w2.extractLsb' 40 8, w2.extractLsb' 48 8, w2.extractLsb' 56 8] = w2

/-- 42_integrator.md R111: one push, register by register. -/
def Obligations.PushFollowsItsRule : Prop :=
  ∀ (w : Win) (p e : F64) (g : Integrator), g.cache[g.pos.toNat]? = some e → g.pos.toNat < Config.slots w →
    let g' := pushPower w p g
    g'.cache = g.cache.set g.pos.toNat p ∧
    g'.sum = fAdd (if g.filled = true then fSub g.sum e else g.sum) p ∧
    g'.pos.toNat = (g.pos.toNat + 1) % Config.slots w ∧
    (g'.filled = true ↔ g.filled = true ∨ g.pos.toNat + 1 = Config.slots w) ∧
    g'.relThr = g.relThr ∧ g'.sumKept = g.sumKept ∧ g'.nKept = g.nKept ∧ g'.hist = g.hist

/-- R111, R113: after any pushes into a new integrator the flag says whether `SLOTS[w]` of them have come, the
position counts them modulo `SLOTS[w]`, and up to the filling the cache holds them in order and the sum is their
left-to-right sum. -/
def Obligations.IntegratorFillsAfterSlotsPushes : Prop :=
  ∀ (w : Win) (ps : List F64),
    let g := pushAll w ps (newIntegrator w)
    (g.filled = true ↔ Config.slots w ≤ ps.length) ∧ g.pos.toNat = ps.length % Config.slots w ∧
    (ps.length ≤ Config.slots w →
      g.cache = ps ++ List.replicate (Config.slots w - ps.length) Config.zero ∧ g.sum = ps.foldl fAdd Config.zero)

/-- R114, for `P = 1.0`: from the moment the window has filled its average is exactly the constant power. -/
def Obligations.ConstantUnitPowerIsItsAverage : Prop :=
  ∀ (w : Win) (n : Nat), Config.slots w ≤ n →
    windowAvg w (pushAll w (List.replicate n ⟨0x3FF0000000000000⟩) (newIntegrator w)) = some ⟨0x3FF0000000000000⟩

/-- 43_gating_histogram.md R120, R121: the loudness of an energy, and the strict absolute gate. -/
def Obligations.LoudFollowsItsRule : Prop :=
  (∀ e : F64, fGt e Config.zero = true →
    loud e = fAdd ⟨0xBFE61CAC083126E9⟩ (fMul ⟨0x4024000000000000⟩ (Config.log10 e))) ∧
  (∀ e : F64, fGt e Config.zero = false → loud e = ⟨0xFFF0000000000000⟩ ∧ passesGate (loud e) = false) ∧
  loud ⟨0x3FF0000000000000⟩ = ⟨0xBFE61CAC083126E9⟩ ∧
  (∀ l : F64, passesGate l = fGt l ⟨0xC051800000000000⟩) ∧ passesGate ⟨0xC051800000000000⟩ = false

/-- R122: the bucket of a loudness, always one of the `NB` buckets. -/
def Obligations.HistIdxFollowsItsRule : Prop :=
  ∀ l : F64,
    let t := fMul (fSub l ⟨0xC051800000000000⟩) ⟨0x4024000000000000⟩
    histIdx l ≤ 800 ∧
    (isNaN l = true ∨ l = ⟨0xFFF0000000000000⟩ → histIdx l = 0) ∧
    (isNaN l = false → l ≠ ⟨0xFFF0000000000000⟩ →
      (fLt t Config.zero = true → histIdx l = 0) ∧
      (fLt t Config.zero = false → fGe t (fOfNat 800) = true → histIdx l = 800) ∧
      (fLt t Config.zero = false → fGe t (fOfNat 800) = false → isNaN t = false →
        (histIdx l : Int) = fFloor t))

/-- R122: the quantiser keeps the order of loudnesses. -/
def Obligations.HistIdxIsMonotone : Prop :=
  ∀ a b : F64, fLe a b = true → histIdx a ≤ histIdx b

/-- R123: the representative loudness and energy of a bucket by their formulas; the loudness grows strictly with the
bucket, and the energy never falls. -/
def Obligations.LoudRepStrictlyIncreasing : Prop :=
  (∀ i : Nat, loudRep i = fAdd (fDiv (fOfNat i) ⟨0x4024000000000000⟩) ⟨0xC051800000000000⟩ ∧
    energyRep i = Config.pow10 (fDiv (fSub (loudRep i) ⟨0xBFE61CAC083126E9⟩) ⟨0x4024000000000000⟩)) ∧
  (loudRep 0 = ⟨0xC051800000000000⟩ ∧ loudRep 693 = ⟨0xBFE6666666666680⟩ ∧ loudRep 800 = ⟨0x4024000000000000⟩) ∧
  ∀ i j : Nat, i < j → j < 801 → fLt (loudRep i) (loudRep j) = true ∧ fLe (energyRep i) (energyRep j) = true

/-- R125, R126: the gate update. Nothing before the window has filled, nothing when its loudness does not pass the
gate of -70.0; else the bucket, the exact energy, the count and the relative threshold, and nothing else. -/
def Obligations.GateUpdateFollowsItsRule : Prop :=
  ∀ (w : Win) (g : Integrator),
    let e := fDiv g.sum (fOfNat (Config.slots w))
    (g.filled = false → gateUpdate w g = g) ∧
    (fGt (loud e) ⟨0xC051800000000000⟩ = false → gateUpdate w g = g) ∧
    (g.filled = true → fGt (loud e) ⟨0xC051800000000000⟩ = true →
      gateUpdate w g =
        { g with
          hist := g.hist.modify (histIdx (loud e)) (· + 1)
          sumKept := fAdd g.sumKept e
          nKept := g.nKept + 1
          relThr := fSub (loud (fDiv (fAdd g.sumKept e) (fOfNat (g.nKept + 1)))) ⟨0x4024000000000000⟩ })

/-- R128: Integrated loudness is the loudness of the count-weighted mean of the representative energies of exactly
the buckets at or above the one the threshold falls in, summed in ascending order. -/
def Obligations.IntegratedIsGatedMean : Prop :=
  ∀ g : Integrator, g.hist.length = Config.nb →
    let above := (List.range Config.nb).filter (fun i => decide (histIdx g.relThr ≤ i) && decide (0 < g.hist.getD i 0))
    let cn := above.foldl (fun n i => n + g.hist.getD i 0) 0
    let es := above.foldl (fun e i => fAdd e (fMul (fOfNat (g.hist.getD i 0)) (energyRep i))) Config.zero
    integrated g = if g.nKept = 0 ∨ cn = 0 then none else some (loud (fDiv es (fOfNat cn)))

/-- R129: the Loudness Range and its two percentile buckets. Each is the first at which the cumulative count of the
gated histogram reaches its fraction; each is occupied; the low one is not above the high one; and they exist
whenever a gated bucket is occupied. -/
def Obligations.PercentileBucketsFollowTheirRule : Prop :=
  ∀ g : Integrator, g.hist.length = Config.nb →
    let base := histIdx g.relThr
    let upTo : Nat → Nat := fun i => ((g.hist.drop base).take (i + 1 - base)).sum
    let n := (g.hist.drop base).sum
    (lraCompute g = (lraBuckets g).map (fun b => (fSub (loudRep b.2) (loudRep b.1), loudRep b.1, loudRep b.2))) ∧
    (lraBuckets g = none ↔ g.nKept = 0 ∨ n = 0) ∧
    (∀ lo hi, lraBuckets g = some (lo, hi) →
      base ≤ lo ∧ lo ≤ hi ∧ hi < Config.nb ∧ 0 < g.hist.getD lo 0 ∧ 0 < g.hist.getD hi 0 ∧
      10 * n ≤ 100 * upTo lo ∧ (∀ i, base ≤ i → i < lo → 100 * upTo i < 10 * n) ∧
      95 * n ≤ 100 * upTo hi ∧ (∀ i, base ≤ i → i < hi → 100 * upTo i < 95 * n))

/-- R130: the Loudness Range is never negative, and is `+0.0` exactly when its two bounds are the same. -/
def Obligations.LraIsNonNegative : Prop :=
  ∀ (g : Integrator) (d lo hi : F64), g.hist.length = Config.nb → lraCompute g = some (d, lo, hi) →
    fLe Config.zero d = true ∧ (d = Config.zero ↔ lo = hi)

/-- R131: silence. However many blocks of zero power a new integrator takes, nothing is kept, and neither I nor LRA
becomes available. -/
def Obligations.SilenceIsNeverKept : Prop :=
  ∀ (w : Win) (n : Nat),
    let g := cycleAll w (List.replicate n Config.zero) (newIntegrator w)
    g.nKept = 0 ∧ g.sumKept = Config.zero ∧ g.hist = List.replicate 801 0 ∧ integrated g = none ∧ lraCompute g = none

/-- R140, R141: the running maximum over a list of samples is the greatest of their magnitudes, or `+0.0` when none
is above it. -/
def Obligations.PeakIsTheGreatestMagnitude : Prop :=
  ∀ xs : List F64, (∀ x ∈ xs, isFinite x = true) →
    (∀ x ∈ xs, fLe (fAbs x) (raiseAll xs Config.zero) = true) ∧
    (raiseAll xs Config.zero = Config.zero ∨ ∃ x ∈ xs, raiseAll xs Config.zero = fAbs x)

/-- R149: true peak against sample peak. Of two lists of samples the one that holds the other has the greater
running maximum. On the registers: over any run of FRAME, OSFRAME and RD commands from a live session with true peak
active, in which `SPK[k]` and `TPK[k]` are `+0.0`, the run completes, `TPK[k]` becomes the greatest magnitude of the
oversampled samples that OSFRAME delivered to channel `k`, `SPK[k]` that of the raw ones (with `SP_EN`), and when
every raw sample is among the oversampled ones `TPK[k]` is at least `SPK[k]`. -/
def Obligations.TruePeakCoversSamplePeak : Prop :=
  (∀ xs ys : List F64, (∀ y ∈ ys, isFinite y = true) → (∀ x ∈ xs, x ∈ ys) →
    fLe (raiseAll xs Config.zero) (raiseAll ys Config.zero) = true) ∧
  ∀ (is : List Instr) (s : State) (ph : Phase) (r : Session) (k : Nat) (c : Channel),
    s.facade = .active ph r → ph ≠ .closed → r.chans.length = r.nch.toNat → r.tpEn = true → r.tpFail = false →
    r.chans[k]? = some c → c.spk = Config.zero → c.tpk = Config.zero → (∀ i ∈ is, isStreaming i = true) →
    let raw := rawSamples r.nch.toNat k is
    let resampled := oversampledSamples r.nch.toNat k is
    ∃ t ph' r' c', execs is s = some t ∧ t.facade = .active ph' r' ∧ r'.chans[k]? = some c' ∧
      IsPeakOf c'.tpk resampled ∧ (r.spEn = true → IsPeakOf c'.spk raw) ∧ (r.spEn = false → c'.spk = Config.zero) ∧
      ((∀ x ∈ raw, x ∈ resampled) → fLe c'.spk c'.tpk = true)

/-- 10_state.md R30: no command lowers a peak while the session lasts, neither a global one nor a channel's, and no
channel goes away. -/
def Obligations.PeaksNeverDecrease : Prop :=
  ∀ (i : Instr) (s t : State) (ph ph' : Phase) (r r' : Session), s.facade = .active ph r → PeakInv r →
    exec i s = .next t → t.facade = .active ph' r' →
    fLe r.spkG r'.spkG = true ∧ fLe r.tpkG r'.tpkG = true ∧
    ∀ (k : Nat) (c : Channel), r.chans[k]? = some c →
      ∃ c', r'.chans[k]? = some c' ∧ fLe c.spk c'.spk = true ∧ fLe c.tpk c'.tpk = true

/-- R147: a peak in dBFS; a peak of zero reads `-Inf`, a full-scale peak 0.0 (as the bits of `+0.0`: the model's
reading of R12, log entry 8). -/
def Obligations.PeakDbFollowsItsRule : Prop :=
  (∀ p : F64, fGt p Config.zero = true → peakDb p = fMul ⟨0x4034000000000000⟩ (Config.log10 p)) ∧
  (∀ p : F64, fGt p Config.zero = false → peakDb p = ⟨0xFFF0000000000000⟩) ∧
  peakDb ⟨0x3FF0000000000000⟩ = Config.zero

/-- R74, R75, R78: the wire forms of a response, with the number of every code, and of the events. -/
def Obligations.WireForms : Prop :=
  (∀ r : Response,
    (packResponse r).toNat =
      2 ^ 68 *
        (match r.code with
        | .ok => 0
        | .eConfig => 1
        | .eTerminal => 2
        | .eSeq => 3
        | .eIllegal => 4
        | .eData => 5) +
      2 ^ 64 * r.valid.toNat + r.data.toNat) ∧
  eventWords .refresh = [0x0200000000000000] ∧ eventWords .closed = [0x0300000000000000] ∧
  (∀ xs : List F64, xs.length ≤ 8 → eventWords (.rsreq xs 4) =
    BitVec.ofNat 64 (2 ^ 56 + 2 ^ 48 * xs.length) :: 4 :: xs.map F64.bits)

/-- R15: `f64(n)` is `n` rounded to nearest even, and exact below `2^53`; `floor(a)` is the largest integer not above
a finite `a` (in units of `2^-1074`, as in `RoundingIsToNearestEven`). -/
def Obligations.IntegersConvertExactly : Prop :=
  (∀ n : Nat, n < 2 ^ 53 → isFinite (fOfNat n) = true ∧ (fOfNat n).sign = false ∧
    unitsOf (fOfNat n) = n * 2 ^ 1074 ∧ fFloor (fOfNat n) = n) ∧
  (∀ n : Nat, RoundsTo (fOfNat n) (n * 2 ^ 1074) 1) ∧
  ∀ a : F64, isFinite a = true →
    fFloor a * 2 ^ 1074 ≤ signedUnits a ∧ signedUnits a < (fFloor a + 1) * 2 ^ 1074

/-- R11, R15: the sum, difference, product and quotient of finite operands are their exact results rounded once to
nearest, ties to even; and so is the one rounding they share. A value counts units of the smallest subnormal,
`2^-1074`, so that an exact product is `signedUnits a * signedUnits b / 2^1074` of them. The sign of an exact zero
and the infinity past the range are IEEE 754's, which R15 names without writing them out (log entry 14). The values
themselves are those of the interchange encoding, and the comparisons compare them: `-0.0` equals `+0.0`, each infinity
lies beyond every finite value, and a comparison with a NaN is false. -/
def Obligations.RoundingIsToNearestEven : Prop :=
  (∀ a : F64,
    let e := a.bits.extractLsb' 52 11
    let f := a.bits.extractLsb' 0 52
    (isFinite a = true ↔ e ≠ 0x7FF) ∧ (isNaN a = true ↔ e = 0x7FF ∧ f ≠ 0) ∧ a.sign = a.bits.getLsbD 63 ∧
    fAbs a = ⟨a.bits &&& 0x7FFFFFFFFFFFFFFF⟩ ∧
    (e = 0 → unitsOf a = f.toNat) ∧ (e ≠ 0 → unitsOf a = (2 ^ 52 + f.toNat) * 2 ^ (e.toNat - 1)) ∧
    signedUnits a = if a.sign = true then -(unitsOf a : Int) else unitsOf a) ∧
  (signedZero false = ⟨0x0000000000000000⟩ ∧ signedZero true = ⟨0x8000000000000000⟩ ∧
    signedInf false = ⟨0x7FF0000000000000⟩ ∧ signedInf true = ⟨0xFFF0000000000000⟩) ∧
  (∀ a b : F64, isFinite a = true → isFinite b = true →
    (fLt a b = true ↔ signedUnits a < signedUnits b) ∧ (fLe a b = true ↔ signedUnits a ≤ signedUnits b) ∧
    (fGt a b = true ↔ signedUnits a > signedUnits b) ∧ (fGe a b = true ↔ signedUnits a ≥ signedUnits b) ∧
    (fEq a b = true ↔ signedUnits a = signedUnits b)) ∧
  (∀ a : F64, (isFinite a = true ∨ a = ⟨0xFFF0000000000000⟩ → fLt a ⟨0x7FF0000000000000⟩ = true) ∧
    (isFinite a = true ∨ a = ⟨0x7FF0000000000000⟩ → fLt ⟨0xFFF0000000000000⟩ a = true)) ∧
  (∀ a b : F64, isNaN a = false → isNaN b = false →
    (fGt a b = fLt b a ∧ fGe a b = fLe b a ∧ fLe a b = !fLt b a ∧ fEq a b = (fLe a b && fLe b a))) ∧
  (∀ a b : F64, isNaN a = true ∨ isNaN b = true →
    fLt a b = false ∧ fLe a b = false ∧ fGt a b = false ∧ fGe a b = false ∧ fEq a b = false) ∧
  (∀ (neg : Bool) (n d : Nat), 0 < d →
    RoundsTo (roundUnits neg n d) (if neg = true then -(n : Int) else n) d ∧ (roundUnits neg n d).sign = neg) ∧
  ∀ a b : F64, isFinite a = true → isFinite b = true →
    (RoundsTo (fAdd a b) (signedUnits a + signedUnits b) 1 ∧
      (signedUnits a + signedUnits b = 0 → fAdd a b = signedZero (a.sign && b.sign))) ∧
    (RoundsTo (fSub a b) (signedUnits a - signedUnits b) 1 ∧
      (signedUnits a - signedUnits b = 0 → fSub a b = signedZero (a.sign && !b.sign))) ∧
    (RoundsTo (fMul a b) (signedUnits a * signedUnits b) (2 ^ 1074) ∧
      (signedUnits a * signedUnits b = 0 → fMul a b = signedZero (a.sign != b.sign))) ∧
    (signedUnits b ≠ 0 →
      RoundsTo (fDiv a b) (if b.sign = true then -(signedUnits a * 2 ^ 1074) else signedUnits a * 2 ^ 1074) (unitsOf b) ∧
      (signedUnits a = 0 → fDiv a b = signedZero (a.sign != b.sign)))

/-- The configuration invariant (R23, R24, R100): every step from any state that has it keeps it. -/
def Obligations.StepKeepsConfiguration : Prop :=
  ∀ s t : State, OnSession (fun _ r => ConfigInv r) s → step s = .next t → OnSession (fun _ r => ConfigInv r) t

/-- The frame count, the phase and `SEEN` (R26, R155): `NACC < BLOCK_LEN`, ACCUMULATING is held exactly while a
block is under way, and READY means that no frame was accepted; every step keeps it. -/
def Obligations.StepKeepsCounters : Prop :=
  ∀ s t : State, OnSession CounterInv s → step s = .next t → OnSession CounterInv t

/-- The integrators (R28, R127): `NKEPT` is the total of the histogram, the cache and the position keep their
ranges, and nothing is kept before the window has filled; every step keeps it. -/
def Obligations.StepKeepsWindows : Prop :=
  ∀ s t : State, OnSession (fun _ r => WindowsInv r) s → step s = .next t → OnSession (fun _ r => WindowsInv r) t

/-- The peaks (R30, R142): each is finite and not negative, and each global peak is the greatest of its channels';
every step keeps it. -/
def Obligations.StepKeepsPeaks : Prop :=
  ∀ s t : State, OnSession (fun _ r => PeakInv r) s → step s = .next t → OnSession (fun _ r => PeakInv r) t

/-- The published loudness (R132, R164): M, S, I and LRA in the snapshot are those of the integrators as they stand;
every step keeps it. -/
def Obligations.StepKeepsPublishedLoudness : Prop :=
  ∀ s t : State, OnSession (fun _ r => PublishedInv r) s → step s = .next t →
    OnSession (fun _ r => PublishedInv r) t

/-- The invariants hold of the state after reset (R206), and of every session INIT creates (R38). -/
def Obligations.InvariantsHoldAtStart : Prop :=
  (OnSession (fun ph r => ConfigInv r ∧ CounterInv ph r ∧ WindowsInv r ∧ PeakInv r ∧ PublishedInv r) State.reset) ∧
  ∀ (w0 w1 w2 : W64) (s t : State), s.facade = .uninitialized → exec (.init w0 w1 w2) s = .next t →
    OnSession (fun ph r => ConfigInv r ∧ CounterInv ph r ∧ WindowsInv r ∧ PeakInv r ∧ PublishedInv r) t

/-- R223: what a command does to the facade, the response it gives and the events it emits depend on the facade and
the command alone, not on what the streams hold. -/
def Obligations.OutputsDependOnFacadeAlone : Prop :=
  ∀ (i : Instr) (s1 s2 : State), s1.facade = s2.facade → ∃ f r es,
    exec i s1 = .next { s1 with facade := f, responses := s1.responses ++ [r], events := s1.events ++ es } ∧
    exec i s2 = .next { s2 with facade := f, responses := s2.responses ++ [r], events := s2.events ++ es }

/-- 10_state.md R39: from any two states, RESET and then the same commands give the same facade, the same responses
and the same events: no earlier session leaves a trace. -/
def Obligations.ReplayIsDeterministic : Prop :=
  ∀ (is : List Instr) (s1 s2 : State), ∃ t1 t2 rs es,
    execs (.reset :: is) s1 = some t1 ∧ execs (.reset :: is) s2 = some t2 ∧ t1.facade = t2.facade ∧
    t1.responses = s1.responses ++ rs ∧ t2.responses = s2.responses ++ rs ∧
    t1.events = s1.events ++ es ∧ t2.events = s2.events ++ es

/-- R146, R162, R193: the true-peak path touches no other metric. Two machines that agree but for what that path
writes still agree after any run of the same commands. (The premise on the first machine's channel count is the
invariant `PeakInv.chan_count`, which `StepKeepsPeaks` states.) -/
def Obligations.TruePeakPathIsIsolated : Prop :=
  ∀ (is : List Instr) (s1 s2 t1 t2 : State),
    OnSession (fun _ r => r.chans.length = r.nch.toNat) s1 →
    facadeWithoutTruePeak s1.facade = facadeWithoutTruePeak s2.facade →
    execs is s1 = some t1 → execs is s2 = some t2 →
    facadeWithoutTruePeak t1.facade = facadeWithoutTruePeak t2.facade

/-- 45_facade.md R162: reads and refused commands between the frames leave no trace in the session: a run's facade
is that of the same run without its RD commands. -/
def Obligations.ReadsLeaveNoTrace : Prop :=
  ∀ (is : List Instr) (s t : State), execs is s = some t →
    ∃ t', execs (is.filter (fun i => !isRead i)) s = some t' ∧
      t'.facade = t.facade ∧ t'.events = t.events
end

