-- ==== Sys2Proof/Laws/State.lean ====
section
/-! SUPPORT. Every field of State after every update, and of the operations that only update: true by rfl. -/

namespace Sys2Proof.Machine

@[simp] theorem setFacade_facade (s : State) (f : Facade) : (s.setFacade f).facade = f := rfl
@[simp] theorem setFacade_commands (s : State) (f : Facade) : (s.setFacade f).commands = s.commands := rfl
@[simp] theorem setFacade_responses (s : State) (f : Facade) : (s.setFacade f).responses = s.responses := rfl
@[simp] theorem setFacade_events (s : State) (f : Facade) : (s.setFacade f).events = s.events := rfl

@[simp] theorem setCommands_facade (s : State) (ws : List W64) : (s.setCommands ws).facade = s.facade := rfl
@[simp] theorem setCommands_commands (s : State) (ws : List W64) : (s.setCommands ws).commands = ws := rfl
@[simp] theorem setCommands_responses (s : State) (ws : List W64) : (s.setCommands ws).responses = s.responses := rfl
@[simp] theorem setCommands_events (s : State) (ws : List W64) : (s.setCommands ws).events = s.events := rfl

@[simp] theorem pushResponse_facade (s : State) (r : Response) : (s.pushResponse r).facade = s.facade := rfl
@[simp] theorem pushResponse_commands (s : State) (r : Response) : (s.pushResponse r).commands = s.commands := rfl
@[simp] theorem pushResponse_responses (s : State) (r : Response) :
    (s.pushResponse r).responses = s.responses ++ [r] := rfl
@[simp] theorem pushResponse_events (s : State) (r : Response) : (s.pushResponse r).events = s.events := rfl

@[simp] theorem pushEvent_facade (s : State) (e : Event) : (s.pushEvent e).facade = s.facade := rfl
@[simp] theorem pushEvent_commands (s : State) (e : Event) : (s.pushEvent e).commands = s.commands := rfl
@[simp] theorem pushEvent_responses (s : State) (e : Event) : (s.pushEvent e).responses = s.responses := rfl
@[simp] theorem pushEvent_events (s : State) (e : Event) : (s.pushEvent e).events = s.events ++ [e] := rfl

@[simp] theorem respond_facade (v : Bool) (d : W64) (s : State) : (respond v d s).facade = s.facade := rfl
@[simp] theorem respond_commands (v : Bool) (d : W64) (s : State) : (respond v d s).commands = s.commands := rfl
@[simp] theorem respond_responses (v : Bool) (d : W64) (s : State) :
    (respond v d s).responses = s.responses ++ [⟨.ok, v, d⟩] := rfl
@[simp] theorem respond_events (v : Bool) (d : W64) (s : State) : (respond v d s).events = s.events := rfl

@[simp] theorem respondOk_facade (s : State) : (respondOk s).facade = s.facade := rfl
@[simp] theorem respondOk_commands (s : State) : (respondOk s).commands = s.commands := rfl
@[simp] theorem respondOk_responses (s : State) : (respondOk s).responses = s.responses ++ [⟨.ok, false, 0⟩] := rfl
@[simp] theorem respondOk_events (s : State) : (respondOk s).events = s.events := rfl

@[simp] theorem raise_facade (e : Code) (s : State) : (raise e s).facade = s.facade := rfl
@[simp] theorem raise_commands (e : Code) (s : State) : (raise e s).commands = s.commands := rfl
@[simp] theorem raise_responses (e : Code) (s : State) : (raise e s).responses = s.responses ++ [⟨e, false, 0⟩] := rfl
@[simp] theorem raise_events (e : Code) (s : State) : (raise e s).events = s.events := rfl

@[simp] theorem emit_facade (e : Event) (s : State) : (emit e s).facade = s.facade := rfl
@[simp] theorem emit_commands (e : Event) (s : State) : (emit e s).commands = s.commands := rfl
@[simp] theorem emit_responses (e : Event) (s : State) : (emit e s).responses = s.responses := rfl
@[simp] theorem emit_events (e : Event) (s : State) : (emit e s).events = s.events ++ [e] := rfl

end Sys2Proof.Machine
end

