-- ==== Sys2Proof/Laws/Ops.lean ====
section
/-! SUPPORT. For each shared operation, once, everything it can do. -/

namespace Sys2Proof.Machine

/-- `whenLive` refuses without a session, refuses in CLOSED, or goes on in one of the three live phases. -/
theorem whenLive_cases (s : State) (k : Phase → Session → State) :
    (s.facade = .uninitialized ∧ whenLive s k = raise .eSeq s) ∨
    (∃ r, s.facade = .active .closed r ∧ whenLive s k = raise .eTerminal s) ∨
    (∃ ph r, ph ≠ .closed ∧ s.facade = .active ph r ∧ whenLive s k = k ph r) := by
  unfold whenLive
  rcases hf : s.facade with _ | ⟨ph, r⟩
  · simp
  · cases ph <;> simp

theorem whenLive_uninitialized {s : State} (k : Phase → Session → State) (h : s.facade = .uninitialized) :
    whenLive s k = raise .eSeq s := by
  simp [whenLive, h]

theorem whenLive_closed {s : State} {r : Session} (k : Phase → Session → State)
    (h : s.facade = .active .closed r) : whenLive s k = raise .eTerminal s := by
  simp [whenLive, h]

theorem whenLive_live {s : State} {ph : Phase} {r : Session} (k : Phase → Session → State)
    (h : s.facade = .active ph r) (hp : ph ≠ .closed) : whenLive s k = k ph r := by
  cases ph <;> simp_all [whenLive]

/-- `whenNoSession` goes on without a session, refuses in CLOSED, and refuses in every other phase. -/
theorem whenNoSession_cases (s : State) (k : State) :
    (s.facade = .uninitialized ∧ whenNoSession s k = k) ∨
    (∃ r, s.facade = .active .closed r ∧ whenNoSession s k = raise .eTerminal s) ∨
    (∃ ph r, ph ≠ .closed ∧ s.facade = .active ph r ∧ whenNoSession s k = raise .eSeq s) := by
  unfold whenNoSession
  rcases hf : s.facade with _ | ⟨ph, r⟩
  · simp
  · cases ph <;> simp

/-- `checkFrame` refuses a wrong length, then a frame with a sample that is not finite, and goes on otherwise. -/
theorem checkFrame_cases (xs : List F64) (r : Session) (s k : State) :
    (xs.length ≠ r.nch.toNat ∧ checkFrame xs r s k = raise .eIllegal s) ∨
    (xs.length = r.nch.toNat ∧ allFinite xs = false ∧ checkFrame xs r s k = raise .eData s) ∨
    (xs.length = r.nch.toNat ∧ allFinite xs = true ∧ checkFrame xs r s k = k) := by
  unfold checkFrame
  by_cases h : xs.length = r.nch.toNat <;> cases hf : allFinite xs <;> simp [h]

theorem checkFrame_ok {xs : List F64} {r : Session} (s k : State) (h : xs.length = r.nch.toNat)
    (hf : allFinite xs = true) : checkFrame xs r s k = k := by
  simp [checkFrame, h, hf]

/-- `commitInit` creates the session in READY when the rate has coefficients, and refuses otherwise. -/
theorem commitInit_cases (w0 w1 w2 : W64) (c : Option (Stage × Stage)) (s : State) :
    (c = none ∧ commitInit w0 w1 w2 c s = raise .eConfig s) ∨
    (∃ st, c = some st ∧
      commitInit w0 w1 w2 c s = respondOk (s.setFacade (.active .ready (newSession w0 w1 w2 st)))) := by
  cases c <;> simp [commitInit]

/-- `commitFrame` runs a block cycle into REFRESHED when the frame count has reached the block length, and goes to
ACCUMULATING otherwise. -/
theorem commitFrame_cases (r : Session) (s : State) :
    (r.nacc = r.blockLen ∧ commitFrame r s = refreshTo .refreshed r.blockLen.toNat r s) ∨
    (r.nacc ≠ r.blockLen ∧ commitFrame r s = s.setFacade (.active .accumulating r)) := by
  unfold commitFrame
  by_cases h : r.nacc = r.blockLen <;> simp [h]

/-- `requestResample` emits one request or nothing. -/
theorem requestResample_cases (xs : List F64) (r : Session) (s : State) :
    (tpActive r = true ∧ requestResample xs r s = emit (.rsreq xs Config.osf) s) ∨
    (tpActive r = false ∧ requestResample xs r s = s) := by
  unfold requestResample
  cases h : tpActive r <;> simp

@[simp] theorem requestResample_facade (xs : List F64) (r : Session) (s : State) :
    (requestResample xs r s).facade = s.facade := by
  unfold requestResample; split <;> rfl
@[simp] theorem requestResample_commands (xs : List F64) (r : Session) (s : State) :
    (requestResample xs r s).commands = s.commands := by
  unfold requestResample; split <;> rfl
@[simp] theorem requestResample_responses (xs : List F64) (r : Session) (s : State) :
    (requestResample xs r s).responses = s.responses := by
  unfold requestResample; split <;> rfl

@[simp] theorem refreshTo_facade (ph : Phase) (n : Nat) (r : Session) (s : State) :
    (refreshTo ph n r s).facade = .active ph (blockCycle n r) := rfl
@[simp] theorem refreshTo_commands (ph : Phase) (n : Nat) (r : Session) (s : State) :
    (refreshTo ph n r s).commands = s.commands := rfl
@[simp] theorem refreshTo_responses (ph : Phase) (n : Nat) (r : Session) (s : State) :
    (refreshTo ph n r s).responses = s.responses := rfl
@[simp] theorem refreshTo_events (ph : Phase) (n : Nat) (r : Session) (s : State) :
    (refreshTo ph n r s).events = s.events ++ [.refresh] := rfl

/-- What `step` can do: wait, refuse an illegal command, or execute the decoded one. -/
theorem step_cases (s : State) :
    (fetch s = .incomplete ∧ step s = .next s) ∨
    (∃ why rest, fetch s = .illegal why rest ∧ step s = .next (raise .eIllegal (s.setCommands rest))) ∨
    (∃ i rest, fetch s = .command i rest ∧ step s = exec i (s.setCommands rest)) := by
  unfold step
  cases h : fetch s <;> simp

end Sys2Proof.Machine
end

