-- ==== Sys2Proof/Laws/Session.lean ====
section
/-! SUPPORT. The fields of the session record, of a channel and of an integrator after each operation that updates
them, and the two outcomes of a gate update. -/

namespace Sys2Proof.Machine

@[simp] theorem filterStep_w (p q : Stage) (x : F64) (c : Channel) : (filterStep p q x c).w = c.w := rfl
@[simp] theorem filterStep_acc (p q : Stage) (x : F64) (c : Channel) : (filterStep p q x c).acc = c.acc := rfl
@[simp] theorem filterStep_spk (p q : Stage) (x : F64) (c : Channel) : (filterStep p q x c).spk = c.spk := rfl
@[simp] theorem filterStep_tpk (p q : Stage) (x : F64) (c : Channel) : (filterStep p q x c).tpk = c.tpk := rfl
@[simp] theorem filterStep_x (p q : Stage) (x : F64) (c : Channel) : (filterStep p q x c).x = shiftIn x c.x := rfl

@[simp] theorem accumulate_w (z : F64) (c : Channel) : (accumulate z c).w = c.w := rfl
@[simp] theorem accumulate_x (z : F64) (c : Channel) : (accumulate z c).x = c.x := rfl
@[simp] theorem accumulate_y (z : F64) (c : Channel) : (accumulate z c).y = c.y := rfl
@[simp] theorem accumulate_z (z : F64) (c : Channel) : (accumulate z c).z = c.z := rfl
@[simp] theorem accumulate_acc (z : F64) (c : Channel) : (accumulate z c).acc = fAdd c.acc (fMul z z) := rfl
@[simp] theorem accumulate_spk (z : F64) (c : Channel) : (accumulate z c).spk = c.spk := rfl
@[simp] theorem accumulate_tpk (z : F64) (c : Channel) : (accumulate z c).tpk = c.tpk := rfl

@[simp] theorem peakSample_w (x : F64) (c : Channel) : (peakSample x c).w = c.w := rfl
@[simp] theorem peakSample_x (x : F64) (c : Channel) : (peakSample x c).x = c.x := rfl
@[simp] theorem peakSample_y (x : F64) (c : Channel) : (peakSample x c).y = c.y := rfl
@[simp] theorem peakSample_z (x : F64) (c : Channel) : (peakSample x c).z = c.z := rfl
@[simp] theorem peakSample_acc (x : F64) (c : Channel) : (peakSample x c).acc = c.acc := rfl
@[simp] theorem peakSample_spk (x : F64) (c : Channel) : (peakSample x c).spk = raisePeak (fAbs x) c.spk := rfl
@[simp] theorem peakSample_tpk (x : F64) (c : Channel) : (peakSample x c).tpk = c.tpk := rfl

@[simp] theorem truePeakSample_w (y : F64) (c : Channel) : (truePeakSample y c).w = c.w := rfl
@[simp] theorem truePeakSample_acc (y : F64) (c : Channel) : (truePeakSample y c).acc = c.acc := rfl
@[simp] theorem truePeakSample_spk (y : F64) (c : Channel) : (truePeakSample y c).spk = c.spk := rfl
@[simp] theorem truePeakSample_tpk (y : F64) (c : Channel) :
    (truePeakSample y c).tpk = raisePeak (fAbs y) c.tpk := rfl

@[simp] theorem clearAcc_w (c : Channel) : (clearAcc c).w = c.w := rfl
@[simp] theorem clearAcc_acc (c : Channel) : (clearAcc c).acc = Config.zero := rfl
@[simp] theorem clearAcc_spk (c : Channel) : (clearAcc c).spk = c.spk := rfl
@[simp] theorem clearAcc_tpk (c : Channel) : (clearAcc c).tpk = c.tpk := rfl

@[simp] theorem ingestSample_w (e : Bool) (p q : Stage) (x : F64) (c : Channel) :
    (ingestSample e p q x c).w = c.w := by cases e <;> rfl
@[simp] theorem ingestSample_tpk (e : Bool) (p q : Stage) (x : F64) (c : Channel) :
    (ingestSample e p q x c).tpk = c.tpk := by cases e <;> rfl
@[simp] theorem ingestSample_spk (e : Bool) (p q : Stage) (x : F64) (c : Channel) :
    (ingestSample e p q x c).spk = if e then raisePeak (fAbs x) c.spk else c.spk := by cases e <;> rfl

/-- `pushPower` leaves the gate's registers alone. -/
@[simp] theorem pushPower_hist (w : Win) (p : F64) (g : Integrator) : (pushPower w p g).hist = g.hist := rfl
@[simp] theorem pushPower_nKept (w : Win) (p : F64) (g : Integrator) : (pushPower w p g).nKept = g.nKept := rfl
@[simp] theorem pushPower_sumKept (w : Win) (p : F64) (g : Integrator) : (pushPower w p g).sumKept = g.sumKept := rfl
@[simp] theorem pushPower_relThr (w : Win) (p : F64) (g : Integrator) : (pushPower w p g).relThr = g.relThr := rfl
@[simp] theorem pushPower_cache (w : Win) (p : F64) (g : Integrator) :
    (pushPower w p g).cache = g.cache.set g.pos.toNat p := rfl
@[simp] theorem pushPower_pos (w : Win) (p : F64) (g : Integrator) :
    (pushPower w p g).pos = BitVec.ofNat 8 (nextPos w g) := rfl
@[simp] theorem pushPower_filled (w : Win) (p : F64) (g : Integrator) :
    (pushPower w p g).filled = (g.filled || nextPos w g == 0) := rfl

/-- `keepWindow` leaves the window's registers alone. -/
@[simp] theorem keepWindow_cache (w : Win) (e : F64) (g : Integrator) : (keepWindow w e g).cache = g.cache := rfl
@[simp] theorem keepWindow_pos (w : Win) (e : F64) (g : Integrator) : (keepWindow w e g).pos = g.pos := rfl
@[simp] theorem keepWindow_sum (w : Win) (e : F64) (g : Integrator) : (keepWindow w e g).sum = g.sum := rfl
@[simp] theorem keepWindow_filled (w : Win) (e : F64) (g : Integrator) : (keepWindow w e g).filled = g.filled := rfl
@[simp] theorem keepWindow_nKept (w : Win) (e : F64) (g : Integrator) : (keepWindow w e g).nKept = g.nKept + 1 := rfl

/-- A gate update changes nothing, or keeps a window that has filled and passes the gate. -/
theorem gateUpdate_cases (w : Win) (g : Integrator) :
    gateUpdate w g = g ∨
    (g.filled = true ∧ passesGate (loud (windowEnergy w g)) = true ∧
      gateUpdate w g = keepWindow w (windowEnergy w g) g) := by
  unfold gateUpdate
  cases hf : g.filled <;> cases hp : passesGate (loud (windowEnergy w g)) <;> simp

@[simp] theorem gateUpdate_pos (w : Win) (g : Integrator) : (gateUpdate w g).pos = g.pos := by
  unfold gateUpdate; split <;> rfl
@[simp] theorem gateUpdate_cache (w : Win) (g : Integrator) : (gateUpdate w g).cache = g.cache := by
  unfold gateUpdate; split <;> rfl
@[simp] theorem gateUpdate_sum (w : Win) (g : Integrator) : (gateUpdate w g).sum = g.sum := by
  unfold gateUpdate; split <;> rfl
@[simp] theorem gateUpdate_filled (w : Win) (g : Integrator) : (gateUpdate w g).filled = g.filled := by
  unfold gateUpdate; split <;> rfl

/-- `publish` writes the snapshot and nothing else. -/
@[simp] theorem publish_snap (r : Session) : (publish r).snap = snapshotOf r := rfl
@[simp] theorem publish_chans (r : Session) : (publish r).chans = r.chans := rfl
@[simp] theorem publish_int0 (r : Session) : (publish r).int0 = r.int0 := rfl
@[simp] theorem publish_int1 (r : Session) : (publish r).int1 = r.int1 := rfl
@[simp] theorem publish_nacc (r : Session) : (publish r).nacc = r.nacc := rfl
@[simp] theorem publish_seen (r : Session) : (publish r).seen = r.seen := rfl

/-- The registers a block cycle writes, and those it leaves alone. -/
@[simp] theorem blockCycle_chans (n : Nat) (r : Session) : (blockCycle n r).chans = r.chans.map clearAcc := rfl
@[simp] theorem blockCycle_nacc (n : Nat) (r : Session) : (blockCycle n r).nacc = 0 := rfl
@[simp] theorem blockCycle_int0 (n : Nat) (r : Session) : (blockCycle n r).int0 =
    gateUpdate .momentary (pushPower .momentary (blockPower n r.chans) r.int0) := rfl
@[simp] theorem blockCycle_int1 (n : Nat) (r : Session) : (blockCycle n r).int1 =
    gateUpdate .shortTerm (pushPower .shortTerm (blockPower n r.chans) r.int1) := rfl
@[simp] theorem blockCycle_snap (n : Nat) (r : Session) : (blockCycle n r).snap =
    snapshotOf (integrate (blockPower n r.chans) (clearBlock r)) := rfl
@[simp] theorem blockCycle_seen (n : Nat) (r : Session) : (blockCycle n r).seen = r.seen := rfl
@[simp] theorem blockCycle_osSeen (n : Nat) (r : Session) : (blockCycle n r).osSeen = r.osSeen := rfl
@[simp] theorem blockCycle_tpFail (n : Nat) (r : Session) : (blockCycle n r).tpFail = r.tpFail := rfl
@[simp] theorem blockCycle_spkG (n : Nat) (r : Session) : (blockCycle n r).spkG = r.spkG := rfl
@[simp] theorem blockCycle_tpkG (n : Nat) (r : Session) : (blockCycle n r).tpkG = r.tpkG := rfl
@[simp] theorem blockCycle_rate (n : Nat) (r : Session) : (blockCycle n r).rate = r.rate := rfl
@[simp] theorem blockCycle_nch (n : Nat) (r : Session) : (blockCycle n r).nch = r.nch := rfl
@[simp] theorem blockCycle_spEn (n : Nat) (r : Session) : (blockCycle n r).spEn = r.spEn := rfl
@[simp] theorem blockCycle_tpEn (n : Nat) (r : Session) : (blockCycle n r).tpEn = r.tpEn := rfl
@[simp] theorem blockCycle_dualMono (n : Nat) (r : Session) : (blockCycle n r).dualMono = r.dualMono := rfl
@[simp] theorem blockCycle_panw (n : Nat) (r : Session) : (blockCycle n r).panw = r.panw := rfl
@[simp] theorem blockCycle_classes (n : Nat) (r : Session) : (blockCycle n r).classes = r.classes := rfl
@[simp] theorem blockCycle_blockLen (n : Nat) (r : Session) : (blockCycle n r).blockLen = r.blockLen := rfl
@[simp] theorem blockCycle_pre (n : Nat) (r : Session) : (blockCycle n r).pre = r.pre := rfl
@[simp] theorem blockCycle_rlb (n : Nat) (r : Session) : (blockCycle n r).rlb = r.rlb := rfl

/-- The registers a frame writes, and those it leaves alone. -/
@[simp] theorem ingestFrame_chans (xs : List F64) (r : Session) : (ingestFrame xs r).chans =
    List.zipWith (ingestSample r.spEn r.pre r.rlb) xs r.chans := rfl
@[simp] theorem ingestFrame_nacc (xs : List F64) (r : Session) : (ingestFrame xs r).nacc = r.nacc + 1 := rfl
@[simp] theorem ingestFrame_seen (xs : List F64) (r : Session) : (ingestFrame xs r).seen = true := rfl
@[simp] theorem ingestFrame_blockLen (xs : List F64) (r : Session) : (ingestFrame xs r).blockLen = r.blockLen := rfl
@[simp] theorem ingestFrame_int0 (xs : List F64) (r : Session) : (ingestFrame xs r).int0 = r.int0 := rfl
@[simp] theorem ingestFrame_int1 (xs : List F64) (r : Session) : (ingestFrame xs r).int1 = r.int1 := rfl
@[simp] theorem ingestFrame_snap (xs : List F64) (r : Session) : (ingestFrame xs r).snap = r.snap := rfl
@[simp] theorem ingestFrame_osSeen (xs : List F64) (r : Session) : (ingestFrame xs r).osSeen = r.osSeen := rfl
@[simp] theorem ingestFrame_tpFail (xs : List F64) (r : Session) : (ingestFrame xs r).tpFail = r.tpFail := rfl
@[simp] theorem ingestFrame_tpkG (xs : List F64) (r : Session) : (ingestFrame xs r).tpkG = r.tpkG := rfl

end Sys2Proof.Machine
end

