-- ==== Sys2Proof/Laws/Exec.lean ====
section
/-! SUPPORT. What a command can do to the session, said once: a property of the phase and the session record that the
five changes to a session keep is kept by every command and by every step. -/

namespace Sys2Proof.Machine

/-- The ways in which commands change a session, as what a property `P` must stand: INIT creates it, an accepted FRAME
ingests a frame (and closes the block when it is the last), OSFRAME folds true peaks, OSFAIL marks the failure,
CLOSE flushes or publishes. -/
structure SessionStable (P : Phase → Session → Prop) : Prop where
  init : ∀ w0 w1 w2 st, initPayloadOk w0 w1 w2 = true → Config.coef (initRate w0) = some st →
    P .ready (newSession w0 w1 w2 st)
  frame : ∀ ph r xs, P ph r → ph ≠ .closed → xs.length = r.nch.toNat → allFinite xs = true →
    (r.nacc + 1 = r.blockLen → P .refreshed (blockCycle r.blockLen.toNat (ingestFrame xs r))) ∧
    (r.nacc + 1 ≠ r.blockLen → P .accumulating (ingestFrame xs r))
  osframe : ∀ ph r ys, P ph r → ph ≠ .closed → ys.length = r.nch.toNat → allFinite ys = true →
    tpActive r = true → P ph (foldTruePeaks ys r)
  osfail : ∀ ph r, P ph r → ph ≠ .closed → r.tpEn = true → P ph (markFailed r)
  close : ∀ ph r, P ph r → ph ≠ .closed →
    (r.nacc ≠ 0 → P .closed (blockCycle r.nacc.toNat r)) ∧ (r.nacc = 0 → P .closed (publish r))

/-- A refusal of `whenLive` keeps the property; the continuation has to. -/
theorem onSession_whenLive {P : Phase → Session → Prop} {s : State} {k : Phase → Session → State}
    (hs : OnSession P s)
    (hk : ∀ ph r, s.facade = .active ph r → ph ≠ .closed → P ph r → OnSession P (k ph r)) :
    OnSession P (whenLive s k) := by
  rcases whenLive_cases s k with ⟨_, h⟩ | ⟨_, _, h⟩ | ⟨ph, r, hp, hf, h⟩
  · rw [h]; exact hs
  · rw [h]; exact hs
  · rw [h]; exact hk ph r hf hp (by simpa [OnSession, hf] using hs)

theorem exec_frame_preserves {P : Phase → Session → Prop} (hP : SessionStable P) {s : State} (hs : OnSession P s)
    (xs : List F64) : ∃ t, exec (.frame xs) s = .next t ∧ OnSession P t := by
  refine ⟨_, rfl, onSession_whenLive hs fun ph r hf hp hr => ?_⟩
  rcases checkFrame_cases xs r s (respondOk (commitFrame (ingestFrame xs r) (requestResample xs r s))) with
    ⟨_, h⟩ | ⟨_, _, h⟩ | ⟨hl, hx, h⟩
  · rw [h]; exact hs
  · rw [h]; exact hs
  · rw [h]
    have hstep := hP.frame ph r xs hr hp hl hx
    rcases commitFrame_cases (ingestFrame xs r) (requestResample xs r s) with ⟨hb, hc⟩ | ⟨hb, hc⟩
    · rw [hc]; exact hstep.1 hb
    · rw [hc]; exact hstep.2 hb

theorem exec_osframe_preserves {P : Phase → Session → Prop} (hP : SessionStable P) {s : State} (hs : OnSession P s)
    (ys : List F64) : ∃ t, exec (.osframe ys) s = .next t ∧ OnSession P t := by
  refine ⟨_, rfl, onSession_whenLive hs fun ph r hf hp hr => ?_⟩
  rcases checkFrame_cases ys r s
      (respondOk (if tpActive r then s.setFacade (.active ph (foldTruePeaks ys r)) else s)) with
    ⟨_, h⟩ | ⟨_, _, h⟩ | ⟨hl, hy, h⟩
  · rw [h]; exact hs
  · rw [h]; exact hs
  · rw [h]
    by_cases ht : tpActive r = true
    · rw [if_pos ht]; exact hP.osframe ph r ys hr hp hl hy ht
    · rw [if_neg ht]; exact hs

theorem exec_osfail_preserves {P : Phase → Session → Prop} (hP : SessionStable P) {s : State} (hs : OnSession P s) :
    ∃ t, exec .osfail s = .next t ∧ OnSession P t := by
  refine ⟨_, rfl, onSession_whenLive hs fun ph r hf hp hr => ?_⟩
  by_cases ht : r.tpEn = true
  · simp only [if_pos ht]; exact hP.osfail ph r hr hp ht
  · simp only [if_neg ht]; exact hs

theorem exec_close_preserves {P : Phase → Session → Prop} (hP : SessionStable P) {s : State} (hs : OnSession P s) :
    ∃ t, exec .close s = .next t ∧ OnSession P t := by
  refine ⟨_, rfl, onSession_whenLive hs fun ph r hf hp hr => ?_⟩
  have hstep := hP.close ph r hr hp
  by_cases hn : r.nacc ≠ 0
  · simp only [if_pos hn]; exact hstep.1 hn
  · simp only [if_neg hn]; exact hstep.2 (not_not.mp hn)

theorem exec_init_preserves {P : Phase → Session → Prop} (hP : SessionStable P) {s : State} (hs : OnSession P s)
    (w0 w1 w2 : W64) : ∃ t, exec (.init w0 w1 w2) s = .next t ∧ OnSession P t := by
  refine ⟨_, rfl, ?_⟩
  rcases whenNoSession_cases s (if initPayloadOk w0 w1 w2 then commitInit w0 w1 w2 (Config.coef (initRate w0)) s
      else raise .eConfig s) with ⟨_, h⟩ | ⟨_, _, h⟩ | ⟨_, _, _, _, h⟩
  · rw [h]
    by_cases hok : initPayloadOk w0 w1 w2 = true
    · rw [if_pos hok]
      rcases commitInit_cases w0 w1 w2 (Config.coef (initRate w0)) s with ⟨_, hc⟩ | ⟨st, hst, hc⟩
      · rw [hc]; exact hs
      · rw [hc]; exact hP.init w0 w1 w2 st hok hst
    · rw [if_neg hok]; exact hs
  · rw [h]; exact hs
  · rw [h]; exact hs

theorem exec_rd_preserves {P : Phase → Session → Prop} {s : State} (hs : OnSession P s) (sel : Selector) (db : Bool) :
    ∃ t, exec (.rd sel db) s = .next t ∧ OnSession P t := by
  refine ⟨_, rfl, ?_⟩
  split <;> exact hs

/-- Every command keeps a property that the changes to a session keep. -/
theorem exec_preserves {P : Phase → Session → Prop} (hP : SessionStable P) {i : Instr} {s t : State}
    (hs : OnSession P s) (h : exec i s = .next t) : OnSession P t := by
  have fin : (∃ t', exec i s = .next t' ∧ OnSession P t') → OnSession P t := by
    rintro ⟨t', h', ht⟩
    rw [h'] at h
    cases h
    exact ht
  cases i with
  | init w0 w1 w2 => exact fin (exec_init_preserves hP hs w0 w1 w2)
  | frame xs => exact fin (exec_frame_preserves hP hs xs)
  | osframe ys => exact fin (exec_osframe_preserves hP hs ys)
  | osfail => exact fin (exec_osfail_preserves hP hs)
  | close => exact fin (exec_close_preserves hP hs)
  | reset => exact fin ⟨_, rfl, trivial⟩
  | rd sel db => exact fin (exec_rd_preserves hs sel db)

/-- Every step keeps a property that the changes to a session keep. -/
theorem step_preserves {P : Phase → Session → Prop} (hP : SessionStable P) {s t : State}
    (hs : OnSession P s) (h : step s = .next t) : OnSession P t := by
  rcases step_cases s with ⟨_, h'⟩ | ⟨_, _, _, h'⟩ | ⟨i, rest, _, h'⟩
  · rw [h'] at h; cases h; exact hs
  · rw [h'] at h; cases h; exact hs
  · rw [h'] at h; exact exec_preserves hP (s := s.setCommands rest) hs h

end Sys2Proof.Machine
end

