-- ==== Sys2Proof/Laws/Float.lean ====
section
/-! SUPPORT. What the four operations do on finite operands, said once: each is one rounding (`roundUnits`) of its exact
result, or an exact zero with its sign. Then the order of the encodings against the order of the values. -/

namespace Sys2Proof.Machine

theorem isNaN_of_finite {a : F64} (h : isFinite a = true) : isNaN a = false := by
  have : a.expo ≠ 2047 := by simpa [isFinite] using h
  simp [isNaN, this]

theorem isInf_of_finite {a : F64} (h : isFinite a = true) : isInf a = false := by
  have : a.expo ≠ 2047 := by simpa [isFinite] using h
  simp [isInf, this]

@[simp] theorem fNeg_expo (a : F64) : (fNeg a).expo = a.expo := by
  have : (fNeg a).bits.extractLsb' 52 11 = a.bits.extractLsb' 52 11 := by
    simp [fNeg, BitVec.extractLsb'_xor]
  simp only [F64.expo, this]

@[simp] theorem fNeg_frac (a : F64) : (fNeg a).frac = a.frac := by
  have : (fNeg a).bits.extractLsb' 0 52 = a.bits.extractLsb' 0 52 := by
    simp [fNeg, BitVec.extractLsb'_xor]
  simp only [F64.frac, this]

@[simp] theorem fNeg_sign (a : F64) : (fNeg a).sign = !a.sign := by
  simp [fNeg, F64.sign]

@[simp] theorem isFinite_fNeg (a : F64) : isFinite (fNeg a) = isFinite a := by simp [isFinite]

@[simp] theorem unitsOf_fNeg (a : F64) : unitsOf (fNeg a) = unitsOf a := by simp [unitsOf]

@[simp] theorem signedUnits_fNeg (a : F64) : signedUnits (fNeg a) = -signedUnits a := by
  simp only [signedUnits, fNeg_sign, unitsOf_fNeg]
  cases a.sign <;> simp

/-- Addition and subtraction of finite operands. -/
theorem addAs_finite (op : ArithOp) {a b : F64} (a' b' : F64) (ha : isFinite a = true) (hb : isFinite b = true) :
    addAs op a b a' b' =
      if signedUnits a + signedUnits b = 0 then signedZero (a.sign && b.sign)
      else roundUnits (decide (signedUnits a + signedUnits b < 0)) (signedUnits a + signedUnits b).natAbs 1 := by
  simp [addAs, isNaN_of_finite ha, isNaN_of_finite hb, isInf_of_finite ha, isInf_of_finite hb]

theorem fAdd_finite {a b : F64} (ha : isFinite a = true) (hb : isFinite b = true) :
    fAdd a b =
      if signedUnits a + signedUnits b = 0 then signedZero (a.sign && b.sign)
      else roundUnits (decide (signedUnits a + signedUnits b < 0)) (signedUnits a + signedUnits b).natAbs 1 :=
  addAs_finite .add a b ha hb

theorem fSub_finite {a b : F64} (ha : isFinite a = true) (hb : isFinite b = true) :
    fSub a b =
      if signedUnits a - signedUnits b = 0 then signedZero (a.sign && !b.sign)
      else roundUnits (decide (signedUnits a - signedUnits b < 0)) (signedUnits a - signedUnits b).natAbs 1 := by
  rw [fSub, addAs_finite .sub a b ha (by simpa using hb), signedUnits_fNeg, fNeg_sign, ← sub_eq_add_neg]

theorem fMul_finite {a b : F64} (ha : isFinite a = true) (hb : isFinite b = true) :
    fMul a b = roundUnits (a.sign != b.sign) (unitsOf a * unitsOf b) unitsOfOne := by
  simp [fMul, isNaN_of_finite ha, isNaN_of_finite hb, isInf_of_finite ha, isInf_of_finite hb]

/-- The quotient of finite operands, the divisor's encoding not that of a zero. -/
theorem fDiv_finite {a b : F64} (ha : isFinite a = true) (hb : isFinite b = true) (h0 : b.mag ≠ 0) :
    fDiv a b = roundUnits (a.sign != b.sign) (unitsOf a * unitsOfOne) (unitsOf b) := by
  simp [fDiv, isNaN_of_finite ha, isNaN_of_finite hb, isInf_of_finite ha, isInf_of_finite hb, h0]

/-- The encoding without its sign is the exponent field above the fraction field. -/
theorem mag_eq (a : F64) : a.mag = a.expo * 2 ^ 52 + a.frac := by
  simp only [F64.mag, F64.expo, F64.frac, BitVec.extractLsb'_toNat, Nat.shiftRight_eq_div_pow]
  omega

theorem frac_lt (a : F64) : a.frac < 2 ^ 52 := by simp only [F64.frac]; omega

theorem expo_lt (a : F64) : a.expo < 2048 := by simp only [F64.expo]; omega

/-- A greater encoding is a greater magnitude. -/
theorem unitsOf_lt {a b : F64} (h : a.mag < b.mag) : unitsOf a < unitsOf b := by
  rw [mag_eq, mag_eq] at h
  have ha := frac_lt a
  have hb := frac_lt b
  simp only [unitsOf]
  by_cases h0 : a.expo = 0
  · rw [if_pos h0]
    by_cases h1 : b.expo = 0
    · rw [if_pos h1]; omega
    · rw [if_neg h1]
      have : 1 ≤ 2 ^ (b.expo - 1) := Nat.one_le_two_pow
      nlinarith
  · rw [if_neg h0, if_neg (by omega : b.expo ≠ 0)]
    rcases Nat.lt_or_ge a.expo b.expo with hlt | hge
    · obtain ⟨d, hd⟩ := Nat.exists_eq_add_of_lt hlt
      have e1 : b.expo - 1 = (a.expo - 1) + (d + 1) := by omega
      have e2 : 2 ^ (d + 1) = 2 ^ d * 2 := Nat.pow_succ 2 d
      rw [e1, Nat.pow_add, e2]
      have p1 : 1 ≤ 2 ^ (a.expo - 1) := Nat.one_le_two_pow
      have p2 : 1 ≤ 2 ^ d := Nat.one_le_two_pow
      generalize 2 ^ (a.expo - 1) = x at *
      generalize 2 ^ d = y at *
      have i1 : (a.frac + 2 ^ 52) * x < 2 ^ 53 * x := by nlinarith
      have i2 : 2 ^ 53 * x ≤ (b.frac + 2 ^ 52) * (x * (y * 2)) := by
        nlinarith [Nat.zero_le (b.frac * x * y), Nat.mul_le_mul_left x p2]
      exact lt_of_lt_of_le i1 i2
    · rw [show a.expo = b.expo by omega]
      have p1 : 1 ≤ 2 ^ (b.expo - 1) := Nat.one_le_two_pow
      nlinarith

/-- The order of the encodings is that of the magnitudes. -/
theorem unitsOf_lt_iff (a b : F64) : unitsOf a < unitsOf b ↔ a.mag < b.mag := by
  refine ⟨fun h => ?_, unitsOf_lt⟩
  by_contra hn
  rcases Nat.lt_or_ge b.mag a.mag with h1 | h1
  · exact absurd (unitsOf_lt h1) (by omega)
  · have e : a.mag = b.mag := by omega
    rw [mag_eq, mag_eq] at e
    have ha := frac_lt a
    have hb := frac_lt b
    have he : a.expo = b.expo := by omega
    have hf : a.frac = b.frac := by omega
    simp [unitsOf, he, hf] at h

theorem unitsOf_eq_zero_iff (a : F64) : unitsOf a = 0 ↔ a.mag = 0 := by
  have h := unitsOf_lt_iff ⟨0⟩ a
  have e1 : unitsOf ⟨0⟩ = 0 := by decide
  have e2 : (⟨0⟩ : F64).mag = 0 := by decide
  omega

/-- The key the comparisons use orders the encodings as their values. -/
theorem orderKey_lt_iff (a b : F64) : orderKey a < orderKey b ↔ signedUnits a < signedUnits b := by
  have h1 := unitsOf_lt_iff a b
  have h2 := unitsOf_lt_iff b a
  have h3 := unitsOf_eq_zero_iff a
  have h4 := unitsOf_eq_zero_iff b
  simp only [orderKey, signedUnits]
  cases a.sign <;> cases b.sign <;> simp <;> omega

end Sys2Proof.Machine
end

