-- ==== Sys2Proof/Laws/Params.lean ====
section
/-! SUPPORT. What is known of the OPEN parameters: the constraints of 00_scope.md R12. -/

namespace Sys2Proof.Config

theorem coef_stages_ok {rate : BitVec 32} {p : Stage × Stage} (h : coef rate = some p) :
    stageOk p.1 = true ∧ stageOk p.2 = true :=
  (@coefParam ⟨coefWitness⟩).stages_ok rate p h

theorem log10_mono {a b : F64} (ha : posFinite a = true) (hb : posFinite b = true)
    (h : Machine.fLe a b = true) : Machine.fLe (log10 a) (log10 b) = true :=
  (@log10Param ⟨log10Witness⟩).mono a b ha hb h

theorem log10_one : log10 one = zero := (@log10Param ⟨log10Witness⟩).at_one

theorem pow10_mono {a b : F64} (ha : Machine.isFinite a = true) (hb : Machine.isFinite b = true)
    (h : Machine.fLe a b = true) : Machine.fLe (pow10 a) (pow10 b) = true :=
  (@pow10Param ⟨pow10Witness⟩).mono a b ha hb h

theorem pow10_pos {a : F64} (h : Machine.isFinite a = true) : Machine.fGt (pow10 a) zero = true :=
  (@pow10Param ⟨pow10Witness⟩).pos a h

theorem pow10_zero : pow10 zero = one := (@pow10Param ⟨pow10Witness⟩).at_zero

end Sys2Proof.Config

namespace Sys2Proof.Machine

/-- Energy that is not above zero has loudness minus infinity (R120). -/
theorem loud_of_not_pos {e : F64} (h : fGt e Config.zero = false) : loud e = Config.negInf := by
  simp [loud, h]

/-- The loudness of unit energy is the offset itself (R120). -/
theorem loud_one : loud Config.one = Config.loudOfs := by
  have h : fGt Config.one Config.zero = true := by decide
  simp only [loud, h, if_true, Config.log10_one]
  decide +kernel

end Sys2Proof.Machine
end

