-- ==== Sys2Proof/Laws/PerInstr.lean ====
section
/-! SUPPORT. Lemmas made per instruction: the shape of an encoding. -/

namespace Sys2Proof.Laws

/-- The length field of a header is what was put there. -/
theorem lenField_headerWord (op sel len : BitVec 8) (db : Bool) : lenField (headerWord op sel len db) = len := by
  apply BitVec.eq_of_getLsbD_eq
  intro k hk
  simp only [lenField, headerWord, BitVec.getLsbD_extractLsb', BitVec.getLsbD_append, hk]
  have h1 : ¬ 40 + k < 32 := by omega
  have h2 : ¬ 40 + k - 32 < 7 + 1 := by omega
  have h4 : 40 + k - 32 - (7 + 1) = k := by omega
  have h5 : ¬ 8 ≤ k := by omega
  simp [h1, h2, h4, h5]

namespace EncodeShape

/-- A well-formed command is encoded as a header and as many words as the header announces (30_encoding.md R67). -/
def Statement (i : Instr) : Prop :=
  wellFormed i = true → ∃ h pay, encode i = h :: pay ∧ (lenField h).toNat = pay.length

theorem init (w0 w1 w2 : W64) : Statement (.init w0 w1 w2) := fun _ =>
  ⟨_, _, rfl, by simp [lenField_headerWord]⟩

theorem frame (xs : List F64) : Statement (.frame xs) := fun h =>
  ⟨_, _, rfl, by
    have : xs.length ≤ maxPayload := by simpa [wellFormed] using h
    have h' : xs.length < 256 := by simpa [maxPayload] using Nat.lt_succ_of_le this
    simp [lenField_headerWord, Nat.mod_eq_of_lt h']⟩

theorem osframe (ys : List F64) : Statement (.osframe ys) := fun h =>
  ⟨_, _, rfl, by
    have : ys.length ≤ maxPayload := by simpa [wellFormed] using h
    have h' : ys.length < 256 := by simpa [maxPayload] using Nat.lt_succ_of_le this
    simp [lenField_headerWord, Nat.mod_eq_of_lt h']⟩

theorem osfail : Statement .osfail := fun _ => ⟨_, _, rfl, by simp [lenField_headerWord]⟩

theorem close : Statement .close := fun _ => ⟨_, _, rfl, by simp [lenField_headerWord]⟩

theorem reset : Statement .reset := fun _ => ⟨_, _, rfl, by simp [lenField_headerWord]⟩

theorem rd (sel : Selector) (db : Bool) : Statement (.rd sel db) := fun _ =>
  ⟨_, _, rfl, by simp [lenField_headerWord]⟩

end EncodeShape
end Sys2Proof.Laws
end

