-- ==== Sys2Proof/Machine/Assembler.lean ====
section
/-! DEFINITION. The assembler's lines and their words (30_encoding.md R80, R81), the text already read: an operand is a
decimal literal or a bit pattern, a line is a command with its operands, and the pseudo-instructions expand to lines. -/

namespace Sys2Proof.Machine

/-- An f64 operand (R80). -/
inductive AsmF64 where
  /-- A decimal literal: a sign, its digits as a number, and how many of them stand behind the point. -/
  | dec (neg : Bool) (digits places : Nat)
  /-- `f64:<16 hex digits>`. -/
  | raw (w : W64)
deriving DecidableEq, Repr

/-- The nearest f64 to a literal, or the value with the given bits (R80). -/
def asmF64 : AsmF64 → F64
  | .dec neg digits places => roundUnits neg (digits * unitsOfOne) (10 ^ places)
  | .raw w => ⟨w⟩

/-- A line of the assembler (R80). -/
inductive AsmLine where
  /-- `INIT`: rate, nch, the three flags, `panw` when given, the class codes listed. -/
  | init (rate : BitVec 32) (nch : BitVec 8) (sp tp dualMono : Bool) (panw : Option AsmF64) (classes : List (BitVec 8))
  | frame (xs : List AsmF64)
  | osframe (ys : List AsmF64)
  | osfail
  | close
  | reset
  /-- `RD <name>` or `RD <name>, DB`. -/
  | rd (sel : Selector) (db : Bool)
  /-- `.word <hex>`. -/
  | word (w : W64)
deriving DecidableEq, Repr

/-- INIT payload word 0 (R72). -/
def initWord0 (rate : BitVec 32) (nch : BitVec 8) (sp tp dualMono : Bool) : W64 :=
  0#21 ++ BitVec.ofBool dualMono ++ BitVec.ofBool tp ++ BitVec.ofBool sp ++ nch ++ rate

/-- A line's words (R80): `panw` absent is `+0.0`, channels without a class are 0. DESIGN CHOICE (log entry 17): R80 is
silent on a frame of more than 255 samples, for which no `len` exists. The text of one is refused (`parseSamples`); such
a line built by hand gets a header with the count modulo 256, and all its words. -/
def assembleLine : AsmLine → List W64
  | .init rate nch sp tp dualMono panw classes =>
    encode (.init (initWord0 rate nch sp tp dualMono) ((panw.map asmF64).getD Config.zero).bits (packClasses classes))
  | .frame xs => encode (.frame (xs.map asmF64))
  | .osframe ys => encode (.osframe (ys.map asmF64))
  | .osfail => encode .osfail
  | .close => encode .close
  | .reset => encode .reset
  | .rd sel db => encode (.rd sel db)
  | .word w => [w]

/-- A program's words, line after line. -/
def assemble (prog : List AsmLine) : List W64 := prog.flatMap assembleLine

/-- `.rep n` … `.endr` (R81). -/
def asmRep (n : Nat) (body : List AsmLine) : List AsmLine := (List.replicate n body).flatten

/-- `FRAMES n, …` (R81). -/
def asmFrames (n : Nat) (xs : List AsmF64) : List AsmLine := asmRep n [.frame xs]

/-- `SNAPSHOT` (R81). -/
def asmSnapshot : List AsmLine :=
  [.rd .m false, .rd .s false, .rd .i false, .rd .lra false, .rd .lraLow false, .rd .lraHigh false,
    .rd .spG false, .rd .tpG false]

/-- The channel number inside a selector's name. -/
def channelDigit (c : Fin 8) : String := ["0", "1", "2", "3", "4", "5", "6", "7"].getD c.val ""

/-- A selector's name (10_state.md R35, R80). -/
def selectorName : Selector → String
  | .status => "STATUS"
  | .cfg0 => "CFG0"
  | .cfgPanw => "CFG_PANW"
  | .cfgClass => "CFG_CLASS"
  | .m => "M"
  | .s => "S"
  | .i => "I"
  | .lra => "LRA"
  | .lraLow => "LRA_LOW"
  | .lraHigh => "LRA_HIGH"
  | .spG => "SP_G"
  | .tpG => "TP_G"
  | .sp c => "SP[" ++ channelDigit c ++ "]"
  | .tp c => "TP[" ++ channelDigit c ++ "]"

end Sys2Proof.Machine
end

