-- ==== Sys2Proof/Machine/AssemblerText.lean ====
section
/-! DEFINITION. The assembler's text (30_encoding.md R80, R81): from characters to the lines of Assembler.lean, and so to
words. Text outside the syntax of R80 and R81, as log entry 17 reads it, gives `none`. -/

namespace Sys2Proof.Machine

/-- The blanks between the words of a line. -/
def isBlank (c : Char) : Bool := c == ' ' || c == '\t' || c == '\r'

/-- Text without the blanks at its ends. -/
def trimBlanks (cs : List Char) : List Char := ((cs.dropWhile isBlank).reverse.dropWhile isBlank).reverse

/-- The words of a line. -/
def lineWords (cs : List Char) : List (List Char) := (cs.splitOnP isBlank).filter (fun w => !w.isEmpty)

/-- The operands of a line, separated by commas. -/
def lineOperands (cs : List Char) : List (List Char) :=
  if (trimBlanks cs).isEmpty then [] else (cs.splitOn ',').map trimBlanks

/-- The value of a digit in a base of at most 16. -/
def digitOf (base : Nat) (c : Char) : Option Nat :=
  let n := c.toNat
  let d :=
    if 48 ≤ n ∧ n ≤ 57 then some (n - 48)
    else if 65 ≤ n ∧ n ≤ 70 then some (n - 55)
    else if 97 ≤ n ∧ n ≤ 102 then some (n - 87)
    else none
  d.filter (fun v => decide (v < base))

/-- The number that digits stand for, the digits before them giving `acc`. -/
def parseDigits (base : Nat) : List Char → Nat → Option Nat
  | [], acc => some acc
  | c :: cs, acc => (digitOf base c).bind (fun d => parseDigits base cs (acc * base + d))

/-- A number: decimal unless prefixed `0x` (R80). -/
def parseNumber : List Char → Option Nat
  | [] => none
  | '0' :: 'x' :: c :: cs => parseDigits 16 (c :: cs) 0
  | c :: cs => parseDigits 10 (c :: cs) 0

/-- A number below a bound: `<u8>`, `<u32>`, a 64-bit word. -/
def parseBelow (bound : Nat) (cs : List Char) : Option Nat := (parseNumber cs).filter (fun n => decide (n < bound))

/-- A raw word: hexadecimal digits, with or without the prefix (R14, R80). -/
def parseHexWord (cs : List Char) : Option W64 :=
  let digits :=
    match cs with
    | '0' :: 'x' :: ds => ds
    | ds => ds
  if digits.isEmpty || 16 < digits.length then none else (parseDigits 16 digits 0).map (BitVec.ofNat 64)

/-- An f64 literal without its sign: decimal digits with at most one point, or a special value as the spec's
programs write it (95_test_vectors.md P4). DESIGN CHOICE (log entry 17): R80 gives no grammar of the decimal literal;
at least one digit stands before the point (`.5` is refused), and none need stand behind it (`5.` is `5.0`); there is
no exponent. -/
def parseUnsignedF64 (neg : Bool) (cs : List Char) : Option AsmF64 :=
  if cs = "inf".toList then some (.raw (if neg then Config.negInf else Config.posInf).bits)
  else
    let whole := cs.takeWhile (fun c => c != '.')
    let places := (cs.dropWhile (fun c => c != '.')).drop 1
    if whole.isEmpty then none else (parseDigits 10 (whole ++ places) 0).map (fun n => .dec neg n places.length)

/-- An f64 operand (R80); `nan` is the quiet NaN of 95_test_vectors.md. DESIGN CHOICE (log entry 17): a minus sign may
stand before a decimal literal or `inf` only, and a plus sign nowhere. -/
def parseF64 : List Char → Option AsmF64
  | 'f' :: '6' :: '4' :: ':' :: ds =>
    if ds.length = 16 then (parseDigits 16 ds 0).map (fun n => .raw (BitVec.ofNat 64 n)) else none
  | '-' :: cs => parseUnsignedF64 true cs
  | cs => if cs = "nan".toList then some (.raw 0x7FF8000000000000) else parseUnsignedF64 false cs

/-- A class code: `F`, `S`, or a number for test purposes (R80). -/
def parseClass (cs : List Char) : Option (BitVec 8) :=
  if cs = ['F'] then some 0
  else if cs = ['S'] then some 1
  else (parseBelow 256 cs).map (BitVec.ofNat 8)

/-- The operands of INIT read so far. -/
structure InitText where
  rate : Option (BitVec 32)
  nch : Option (BitVec 8)
  sp : Bool
  tp : Bool
  dualMono : Bool
  panw : Option AsmF64
  classes : List (BitVec 8)
deriving DecidableEq, Repr

/-- One operand of INIT (R80). DESIGN CHOICE (log entry 17): R80 does not say in which order the operands stand or
whether one may come twice; any order is taken, and of a repeated operand the last. -/
def readInitWord (t : InitText) (w : List Char) : Option InitText :=
  let key := w.takeWhile (fun c => c != '=')
  let value := (w.dropWhile (fun c => c != '=')).drop 1
  if w = "sp".toList then some { t with sp := true }
  else if w = "tp".toList then some { t with tp := true }
  else if w = "dualmono".toList then some { t with dualMono := true }
  else if key = "rate".toList then
    (parseBelow (2 ^ 32) value).map (fun n => { t with rate := some (BitVec.ofNat 32 n) })
  else if key = "nch".toList then
    (parseBelow 256 value).map (fun n => { t with nch := some (BitVec.ofNat 8 n) })
  else if key = "panw".toList then (parseF64 value).map (fun v => { t with panw := some v })
  else if key = "class".toList then
    (((value.splitOn ',').mapM parseClass).filter (fun ks => decide (ks.length ≤ 8))).map
      (fun ks => { t with classes := ks })
  else none

/-- The line of an INIT: `rate` and `nch` must be given (R80). -/
def parseInit (ws : List (List Char)) : Option AsmLine :=
  match ws.foldlM readInitWord ⟨none, none, false, false, false, none, []⟩ with
  | none => none
  | some t =>
    match t.rate, t.nch with
    | some rate, some nch => some (.init rate nch t.sp t.tp t.dualMono t.panw t.classes)
    | some _, none => none
    | none, some _ => none
    | none, none => none

/-- The selector a name stands for (10_state.md R35, R80). -/
def selectorNamed (cs : List Char) : Option Selector := selectors.find? (fun sel => (selectorName sel).toList == cs)

/-- The line of an RD: a name, and `DB` or nothing (R80). -/
def parseRd : List (List Char) → Option AsmLine
  | [name] => (selectorNamed name).map (fun sel => .rd sel false)
  | [name, flag] => if flag = ['D', 'B'] then (selectorNamed name).map (fun sel => .rd sel true) else none
  | [] => none
  | _ :: _ :: _ :: _ => none

/-- The samples of a FRAME, an OSFRAME or a FRAMES (R80, R81). DESIGN CHOICE (log entry 17): a line without an
operand stands for `len = 0`, and one with more than 255, for which no `len` exists, is refused. -/
def parseSamples (ops : List (List Char)) : Option (List AsmF64) :=
  (ops.mapM parseF64).filter (fun xs => decide (xs.length ≤ maxPayload))

/-- `FRAMES <n>, <f64>, ...` (R81). -/
def parseFrames : List (List Char) → Option (List AsmLine)
  | [] => none
  | n :: xs =>
    match parseNumber n, parseSamples xs with
    | some n, some vs => some (asmFrames n vs)
    | some _, none => none
    | none, some _ => none
    | none, none => none

/-- A line of the text, read. -/
inductive AsmSource where
  /-- The commands the line stands for; none for a line that is blank or a comment. -/
  | commands (ls : List AsmLine)
  /-- `.rep <n>`. -/
  | rep (n : Nat)
  /-- `.endr`. -/
  | endr
deriving DecidableEq, Repr

/-- A line by its first word, the words behind it, and the same as raw text (R80, R81). -/
def parseMnemonic (op : List Char) (args : List (List Char)) (raw : List Char) : Option AsmSource :=
  if op = "INIT".toList then (parseInit args).map (fun l => .commands [l])
  else if op = "FRAME".toList then (parseSamples (lineOperands raw)).map (fun xs => .commands [.frame xs])
  else if op = "OSFRAME".toList then (parseSamples (lineOperands raw)).map (fun ys => .commands [.osframe ys])
  else if op = "RD".toList then (parseRd (lineOperands raw)).map (fun l => .commands [l])
  else if op = "FRAMES".toList then (parseFrames (lineOperands raw)).map .commands
  else
    match args with
    | [] =>
      if op = "OSFAIL".toList then some (.commands [.osfail])
      else if op = "CLOSE".toList then some (.commands [.close])
      else if op = "RESET".toList then some (.commands [.reset])
      else if op = "SNAPSHOT".toList then some (.commands asmSnapshot)
      else if op = ".endr".toList then some .endr
      else none
    | [arg] =>
      if op = ".word".toList then (parseHexWord arg).map (fun w => .commands [.word w])
      else if op = ".rep".toList then (parseNumber arg).map .rep
      else none
    | _ :: _ :: _ => none

/-- A line of the text; `;` starts a comment (R80). -/
def parseLine (cs : List Char) : Option AsmSource :=
  let code := trimBlanks (cs.takeWhile (fun c => c != ';'))
  match lineWords code with
  | [] => some (.commands [])
  | op :: args => parseMnemonic op args (code.drop op.length)

/-- The repetitions expanded (R81). `open_` holds the `.rep` lines not yet closed, innermost first, each with the
lines that stood before it. -/
def expandReps : List AsmSource → List (Nat × List AsmLine) → List AsmLine → Option (List AsmLine)
  | [], [], cur => some cur
  | [], _ :: _, _ => none
  | .commands ls :: rest, open_, cur => expandReps rest open_ (cur ++ ls)
  | .rep n :: rest, open_, cur => expandReps rest ((n, cur) :: open_) []
  | .endr :: rest, (n, before) :: open_, cur => expandReps rest open_ (before ++ asmRep n cur)
  | .endr :: _, [], _ => none

/-- The lines of a program's text. -/
def parseProgram (text : String) : Option (List AsmLine) :=
  ((text.toList.splitOn '\n').mapM parseLine).bind (fun ls => expandReps ls [] [])

/-- The words of a program's text (R80, R81). -/
def assembleText (text : String) : Option (List W64) := (parseProgram text).map assemble

end Sys2Proof.Machine
end

