-- ==== Sys2Proof/Tests/Slice0.lean ====
section
/-! SUPPORT. The model's own tests. The first part holds the vectors of 95_test_vectors.md that need no OPEN parameter,
each with the number of its vector; the second part holds, for every obligation with hypotheses, a concrete state and
operands that meet them. -/

namespace Sys2Proof.Tests

open Sys2Proof.Machine

/-! ### Fixtures -/

/-- `COEF_TEST(10)`'s stage: the identity. -/
def ident : Stage := ⟨⟨0x3FF0000000000000⟩, ⟨0⟩, ⟨0⟩, ⟨0x3FF0000000000000⟩, ⟨0⟩, ⟨0⟩⟩

/-- `SYN_PRE`. -/
def synPre : Stage :=
  ⟨⟨0x3FF0000000000000⟩, ⟨0x3FE0000000000000⟩, ⟨0x3FD0000000000000⟩, ⟨0x3FF0000000000000⟩,
    ⟨0xBFE0000000000000⟩, ⟨0x3FD0000000000000⟩⟩

/-- `SYN_RLB`. -/
def synRlb : Stage :=
  ⟨⟨0x3FF0000000000000⟩, ⟨0xC000000000000000⟩, ⟨0x3FF0000000000000⟩, ⟨0x3FF0000000000000⟩,
    ⟨0xBFE0000000000000⟩, ⟨0x3FB0000000000000⟩⟩

/-- The session of `INIT rate=20 nch=2 sp tp`, filters SYN. -/
def sess2 : Session := newSession 0x0000030200000014 0 0 (synPre, synRlb)

/-- The session of `INIT rate=10 nch=1 sp`, filters identity: one frame a block. -/
def sess1 : Session := newSession 0x000001010000000A 0 0 (ident, ident)

/-- A machine in a session, its streams empty. -/
def inSession (ph : Phase) (r : Session) : State := { State.reset with facade := .active ph r }

def half : F64 := ⟨0x3FE0000000000000⟩
def negQuarter : F64 := ⟨0xBFD0000000000000⟩
def quietNaN : F64 := ⟨0x7FF8000000000000⟩
def two : F64 := ⟨0x4000000000000000⟩

/-- `sess2` after `FRAME 0.5, -0.25`. -/
def sess2Running : Session := ingestFrame [half, negQuarter] sess2

/-- `sess2` after its first block. -/
def sess2Refreshed : Session := blockCycle 2 (ingestFrame [half, negQuarter] sess2Running)

/-- The last response of a step's outcome. -/
def answer (o : Result) : Option Response :=
  match o with
  | .next t => t.responses.getLast?
  | .fault _ => none
  | .refused _ => none

/-- The facade state of a step's outcome. -/
def stOf (o : Result) : Option ST :=
  match o with
  | .next t => some t.facade.st
  | .fault _ => none
  | .refused _ => none

/-- The session of a step's outcome. -/
def sessionOf (o : Result) : Option Session :=
  match o with
  | .next t =>
    match t.facade with
    | .uninitialized => none
    | .active _ r => some r
  | .fault _ => none
  | .refused _ => none

/-- The events of a step's outcome. -/
def eventsOf (o : Result) : Option (List Event) :=
  match o with
  | .next t => some t.events
  | .fault _ => none
  | .refused _ => none

/-! ### Syntax and well-formedness: a term that each check refuses, and one it lets through -/

theorem test_wf_frame_too_long : wellFormed (.frame (List.replicate 256 Config.zero)) = false := by decide +kernel
theorem test_wf_osframe_too_long : wellFormed (.osframe (List.replicate 256 Config.zero)) = false := by decide +kernel
theorem test_wf_db_on_metric : wellFormed (.rd .m true) = false := by decide
theorem test_wf_longest_frame : wellFormed (.frame (List.replicate 255 Config.zero)) = true := by decide +kernel

/-! ### Decoding: words written out from R66, R68, R71 to R73 -/

theorem test_decode_init : decode [0x0100030000000000, 0x0000050100000014, 0x3FE0000000000000, 0x0000000000000100] =
    .command (.init 0x0000050100000014 0x3FE0000000000000 0x0000000000000100) [] := by decide
theorem test_decode_frame : decode [0x0200010000000000, 0xBFF0000000000000, 0x0500000000000000] =
    .command (.frame [⟨0xBFF0000000000000⟩]) [0x0500000000000000] := by decide
theorem test_decode_osframe : decode [0x0300020000000000, 0x3FE3333333333333, 0xBFD3333333333333] =
    .command (.osframe [⟨0x3FE3333333333333⟩, ⟨0xBFD3333333333333⟩]) [] := by decide
theorem test_decode_osfail : decode [0x0400000000000000] = .command .osfail [] := by decide
theorem test_decode_close : decode [0x0500000000000000] = .command .close [] := by decide
theorem test_decode_reset : decode [0x0600000000000000] = .command .reset [] := by decide
theorem test_decode_rd : decode [0x0741000100000000] = .command (.rd (.sp 1) true) [] := by decide
theorem test_decode_rd_tp7 : decode [0x0767000000000000] = .command (.rd (.tp 7) false) [] := by decide

/-- V-E3, the header faults one by one. -/
theorem test_decode_illegal :
    decode [0x0000000000000000] = .illegal .undefinedOp [] ∧
    decode [0x0800000000000000] = .illegal .undefinedOp [] ∧
    decode [0xFF00000000000000] = .illegal .undefinedOp [] ∧
    decode [0x0500000000000001] = .illegal .rsvNonzero [] ∧
    decode [0x0501000000000000] = .illegal .selNonzero [] ∧
    decode [0x0600000100000000] = .illegal .flgNonzero [] ∧
    decode [0x0400010000000000, 0] = .illegal .wrongLength [] ∧
    decode [0x0100020000000000, 0x000001010000000A, 0] = .illegal .wrongLength [] ∧
    decode [0x0100040000000000, 0, 0, 0, 0] = .illegal .wrongLength [] ∧
    decode [0x0200010100000000, 0x3FF0000000000000] = .illegal .flgNonzero [] ∧
    decode [0x0210010000000000, 0x3FF0000000000000] = .illegal .selNonzero [] := by decide

/-- V-E3, the header faults of RD. -/
theorem test_decode_illegal_rd :
    decode [0x0704000000000000] = .illegal .undefinedSelector [] ∧
    decode [0x0722000000000000] = .illegal .undefinedSelector [] ∧
    decode [0x0748000000000000] = .illegal .undefinedSelector [] ∧
    decode [0x0710000100000000] = .illegal .dbOnNonPeak [] ∧
    decode [0x0700000100000000] = .illegal .dbOnNonPeak [] ∧
    decode [0x0720000200000000] = .illegal .flgReserved [] ∧
    decode [0x0720000000000100] = .illegal .rsvNonzero [] ∧
    decode [0x0700010000000000, 0] = .illegal .wrongLength [] := by decide

/-- V-E4: the undefined opcode swallows the two words its `len` announces. -/
theorem test_framing_is_kept :
    decode [0xFF00020000000000, 0x0600000000000000, 0x0600000000000000, 0x0700000000000000] =
      .illegal .undefinedOp [0x0700000000000000] := by decide

/-- The words of the opcode table select their own row. -/
theorem test_table_words :
    [decodeTableWord 64 0x0200000000000000, decodeTableWord 64 0x0300000000000000,
      decodeTableWord 64 0x0400000000000000, decodeTableWord 64 0x0500000000000000,
      decodeTableWord 64 0x0600000000000000, decodeTableWord 64 0x0700000000000000,
      decodeTableWord 64 0x0100030000000000] =
    [some (.frame []), some (.osframe []), some .osfail, some .close, some .reset, some (.rd .status false),
      some (.init 0 0 0)] := by decide

/-- A table word placed where the machine fetches is fetched. -/
theorem test_fetch_word : fetch (State.reset.withFetchWord 64 0x0200010000000000) = .command (.frame [⟨0⟩]) [] := by
  decide

/-! ### The assembler (R80, R81, R82) -/

theorem test_assemble_init : assembleLine (.init 48000 2 true true false none [0, 0]) =
    [0x0100030000000000, 0x000003020000BB80, 0, 0] := by decide +kernel
theorem test_assemble_frame : assembleLine (.frame [.dec false 10 1, .dec true 5 1]) =
    [0x0200020000000000, 0x3FF0000000000000, 0xBFE0000000000000] := by decide +kernel
theorem test_assemble_frames_macro : assemble (asmFrames 2 [.dec false 1 1]) =
    [0x0200010000000000, 0x3FB999999999999A, 0x0200010000000000, 0x3FB999999999999A] := by decide +kernel
theorem test_assemble_snapshot : assemble asmSnapshot =
    [0x0710000000000000, 0x0711000000000000, 0x0712000000000000, 0x0713000000000000, 0x0714000000000000,
      0x0715000000000000, 0x0720000000000000, 0x0721000000000000] := by decide +kernel

/-- Lines of 95_test_vectors.md (P5 lines 1, 17 and 15, P4 lines 12 and 26) as they are written there. -/
theorem test_assemble_text :
    assembleText "INIT rate=20 nch=1 sp dualmono panw=0.5 ; dual mono\nRD M\n\nFRAME -0.0\nFRAME 0.5, nan\nRD TP_G, DB" =
    some [0x0100030000000000, 0x0000050100000014, 0x3FE0000000000000, 0, 0x0710000000000000, 0x0200010000000000,
      0x8000000000000000, 0x0200020000000000, 0x3FE0000000000000, 0x7FF8000000000000, 0x0721000100000000] := by
  decide +kernel
theorem test_assemble_text_reps :
    parseProgram ".rep 2\nRD SP[1]\n.rep 2\nCLOSE\n.endr\n.endr\n.word FF00020000000000\nFRAMES 1, f64:3FF0000000000000" =
    some [.rd (.sp 1) false, .close, .close, .rd (.sp 1) false, .close, .close, .word 0xFF00020000000000,
      .frame [.raw 0x3FF0000000000000]] := by decide +kernel
theorem test_assemble_text_sample_count :
    [parseLine "FRAME".toList, (parseSamples (List.replicate 255 ['1'])).map (fun _ => .endr),
      (parseSamples (List.replicate 256 ['1'])).map (fun _ => .endr)] =
    [some (.commands [.frame []]), some .endr, none] := by decide +kernel
theorem test_assemble_text_refused :
    [parseProgram "FRAME 0.5 0.5", parseProgram "RD X", parseProgram ".rep 2\nCLOSE", parseProgram "INIT rate=10"] =
      [none, none, none, none] := by decide +kernel

/-! ### Responses and events on the wire (V-E6, V-E7) -/

theorem test_response_words :
    packResponse ⟨.ok, true, 0xBFE61CAC083126E9⟩ = 0x01BFE61CAC083126E9 ∧
    packResponse ⟨.eTerminal, false, 0⟩ = 0x200000000000000000 ∧
    packResponse ⟨.ok, false, 0⟩ = 0 ∧ packResponse ⟨.eData, false, 0⟩ = 0x500000000000000000 := by decide
theorem test_event_words : eventWords (.rsreq [half, negQuarter] 4) =
    [0x0102000000000000, 4, 0x3FE0000000000000, 0xBFD0000000000000] := by decide

/-! ### The filters (V-F2, V-F4, V-F5) -/

/-- A channel of `sess2`. -/
def chan0 : Channel := newChannel Config.wFront

theorem test_biquad : biquad synRlb ⟨half, Config.one, Config.one⟩ ⟨0xBFE0000000000000⟩ Config.one =
    ⟨0xBFEA000000000000⟩ := by decide +kernel
theorem test_filter_four_samples :
    let c1 := filterStep synPre synRlb Config.one chan0
    let c2 := filterStep synPre synRlb ⟨0xBFF0000000000000⟩ c1
    let c3 := filterStep synPre synRlb half c2
    let c4 := filterStep synPre synRlb two c3
    (c1.z.h0.bits, c2.z.h0.bits, c3.z.h0.bits, c4.z.h0.bits) =
      (0x3FF0000000000000, 0xBFF8000000000000, 0x3FC8000000000000, 0x4001800000000000) := by decide +kernel
theorem test_filter_negative_zero :
    let c := filterStep ident ident ⟨0x8000000000000000⟩ chan0
    (c.x.h0.bits, c.y.h0.bits, c.z.h0.bits) = (0x8000000000000000, 0, 0) := by decide +kernel

/-! ### Weights and block power (V-W1 to V-W4) -/

theorem test_weights :
    (channelWeight false 3 ⟨0⟩ 1, channelWeight false 3 ⟨0⟩ 0, channelWeight true 1 half 0, channelWeight true 2 half 1,
      channelWeight false 1 half 0) = (⟨0x3FF699C0F7E86E10⟩, Config.one, half, ⟨0x3FF699C0F7E86E10⟩, Config.one) := by
  decide
theorem test_accumulate : (accumulate ⟨0x3FB999999999999A⟩ chan0).acc = ⟨0x3F847AE147AE147C⟩ := by decide +kernel
theorem test_block_power_surround :
    blockPower 1 [chan0, { newChannel Config.wSurr with acc := ⟨0x3F847AE147AE147C⟩ }] = ⟨0x3F8CEDC3CCAEA15E⟩ := by
  decide +kernel
theorem test_divide_before_weight :
    blockPower 2 [{ newChannel half with acc := ⟨0x400A000000000000⟩ }] = ⟨0x3FEA000000000000⟩ := by decide +kernel

/-! ### The integrator (V-I1) -/

/-- Four pushes of 1.0 and two of 0.0001. -/
def pushed : Integrator :=
  pushAll .momentary (List.replicate 4 Config.one ++ List.replicate 2 ⟨0x3F1A36E2EB1C432D⟩) (newIntegrator .momentary)

theorem test_integrator_evicts : (pushed.sum.bits, pushed.pos, pushed.filled) =
    (0x40000068DB8BAC72, 2, true) := by decide +kernel
theorem test_integrator_short_term :
    let g := pushAll .shortTerm (List.replicate 4 Config.one ++ [⟨0x3F1A36E2EB1C432D⟩]) (newIntegrator .shortTerm)
    (g.pos, g.filled, windowAvg .shortTerm g) = (5, false, none) := by decide +kernel

/-! ### Gating and histogram (V-G3, V-G4, V-G7) -/

theorem test_hist_idx :
    [histIdx ⟨0xBFE61CAC083126E9⟩, histIdx ⟨0xBFE6666666666680⟩, histIdx ⟨0xC02B800000000000⟩,
      histIdx ⟨0xC05179999999999A⟩, histIdx ⟨0xC051800000000000⟩, histIdx ⟨0xC052C00000000000⟩,
      histIdx ⟨0x4024000000000000⟩, histIdx ⟨0x4039000000000000⟩, histIdx Config.posInf, histIdx Config.negInf,
      histIdx quietNaN] = [693, 693, 562, 0, 0, 0, 800, 800, 800, 0, 0] := by decide +kernel
theorem test_loud_rep :
    [loudRep 0, loudRep 1, loudRep 293, loudRep 508, loudRep 562, loudRep 593, loudRep 693, loudRep 800] =
      [⟨0xC051800000000000⟩, ⟨0xC05179999999999A⟩, ⟨0xC04459999999999A⟩, ⟨0xC033333333333334⟩,
        ⟨0xC02B999999999998⟩, ⟨0xC025666666666668⟩, ⟨0xBFE6666666666680⟩, ⟨0x4024000000000000⟩] := by decide +kernel

/-- An integrator whose histogram holds the given counts, all of them above the threshold. -/
def counted (cs : List (Nat × Nat)) : Integrator :=
  { newIntegrator .shortTerm with
    filled := true
    relThr := Config.negInf
    nKept := (cs.map Prod.snd).sum
    hist := cs.foldl (fun h kc => h.set kc.1 kc.2) (List.replicate 801 0) }

theorem test_lra_range : lraCompute (counted [(600, 1), (650, 8), (693, 1)]) =
    some (⟨0x4022999999999998⟩, ⟨0xC024000000000000⟩, ⟨0xBFE6666666666680⟩) := by decide +kernel
theorem test_lra_buckets :
    (lraBuckets (counted []), lraBuckets (counted [(693, 5)]), lraBuckets (counted [(600, 1), (693, 1)]),
      lraBuckets (counted [(600, 99), (693, 1)])) =
    (none, some (693, 693), some (600, 693), some (600, 600)) := by decide +kernel

/-! ### Peaks (V-P1, V-P2) -/

theorem test_peak_sample :
    (raisePeak (fAbs ⟨0xBFE3333333333333⟩) half, raisePeak (fAbs ⟨0x8000000000000000⟩) ⟨0⟩) =
      (⟨0x3FE3333333333333⟩, ⟨0⟩) := by decide
theorem test_true_peak_fold :
    let r := foldTruePeaks [⟨0xBFE8000000000000⟩, ⟨0x3FB999999999999A⟩]
      { sess2 with chans := [{ chan0 with tpk := half }, { chan0 with tpk := ⟨0x3FC999999999999A⟩ }], tpkG := half }
    (r.chans.map Channel.tpk, r.tpkG, r.osSeen) =
      ([⟨0x3FE8000000000000⟩, ⟨0x3FC999999999999A⟩], ⟨0x3FE8000000000000⟩, true) := by decide

/-! ### The commands -/

/-- V-X3: payloads INIT refuses, and two at the edge of what it takes. -/
theorem test_init_payload :
    [initPayloadOk 0x0000000200000000 0 0, initPayloadOk 0x000000020000000F 0 0, initPayloadOk 0x0000000000000014 0 0,
      initPayloadOk 0x0000000900000014 0 0, initPayloadOk 0x0000000200000014 0 2,
      initPayloadOk 0x0000000200000014 0 0x10000, initPayloadOk 0x0000080100000014 0 0,
      initPayloadOk 0x0000040100000014 0 0, initPayloadOk 0x0000040100000014 0xBFF0000000000000 0,
      initPayloadOk 0x0000040100000014 0x7FF0000000000000 0, initPayloadOk 0x0000040200000014 0x7FF8000000000000 0,
      initPayloadOk 0x0000070800000014 0 0x0101010101010101] =
    [false, false, false, false, false, false, false, false, false, false, true, true] := by decide
/-- INIT with coefficients at hand: READY, and the weights of P2. -/
theorem test_init_commit :
    let o : Result := .next (commitInit 0x000001020000000A 0 0x100 (some (ident, ident)) State.reset)
    (answer o, stOf o, (sessionOf o).map (fun r => (r.blockLen, r.chans.map Channel.w))) =
      (some ⟨.ok, false, 0⟩, some .ready, some (1, [Config.wFront, Config.wSurr])) := by decide +kernel

/-- P4 line 14: the request, the count, the peak, the histories. -/
theorem test_frame :
    let o := exec (.frame [half, negQuarter]) (inSession .ready sess2)
    answer o = some ⟨.ok, false, 0⟩ ∧ stOf o = some .accumulating ∧ eventsOf o = some [.rsreq [half, negQuarter] 4] ∧
      (sessionOf o).map (fun r => (r.nacc, r.spkG, r.chans.map (fun c => c.z.h0))) =
        some (1, half, [half, negQuarter]) := by decide +kernel
/-- P4 line 19: the frame that completes a block; its power is 0.46875. -/
theorem test_frame_completes_block :
    let o := exec (.frame [⟨0xBFE0000000000000⟩, ⟨0x3FC0000000000000⟩]) (inSession .accumulating sess2Running)
    stOf o = some .refreshed ∧
      eventsOf o = some [.rsreq [⟨0xBFE0000000000000⟩, ⟨0x3FC0000000000000⟩] 4, .refresh] ∧
      (sessionOf o).map (fun r => (r.nacc, r.int0.sum, r.int1.pos)) = some (0, ⟨0x3FDE000000000000⟩, 1) ∧
      (sessionOf o).map (fun r => (r.snap.spG, r.snap.m)) = some (some half, none) := by decide +kernel

/-- P4 lines 10 and 18. -/
theorem test_osframe :
    answer (exec (.osframe [⟨0x3FB999999999999A⟩, ⟨0x3FB999999999999A⟩]) (inSession .ready sess2)) =
      some ⟨.ok, false, 0⟩ ∧
    answer (exec (.osframe [half, Config.posInf]) (inSession .ready sess2)) = some ⟨.eData, false, 0⟩ := by
  decide +kernel
/-- OSFRAME in a session without true peak does nothing (R144). -/
theorem test_osframe_disabled : sessionOf (exec (.osframe [Config.one]) (inSession .ready sess1)) = some sess1 := by
  decide +kernel

/-- OSFAIL with true peak enabled, and without (R146). -/
theorem test_osfail :
    (sessionOf (exec .osfail (inSession .ready sess2))).map Session.tpFail = some true ∧
    (sessionOf (exec .osfail (inSession .ready sess1))).map Session.tpFail = some false := by decide +kernel

/-- CLOSE with a partial block: both events, the flush over one frame (V-W5). -/
theorem test_close_flush :
    let o := exec .close (inSession .accumulating sess2Running)
    (stOf o, eventsOf o, (sessionOf o).map (fun r => (r.nacc, r.int0.sum))) =
      (some .closed, some [.refresh, .closed], some (0, ⟨0x3FD4000000000000⟩)) := by decide +kernel
/-- CLOSE straight after INIT publishes nothing (V-P4). -/
theorem test_close_ready :
    let o := exec .close (inSession .ready sess1)
    (stOf o, eventsOf o, (sessionOf o).map (fun r => (r.snap.spG, r.snap.m))) =
      (some .closed, some [.closed], some (none, none)) := by decide +kernel

theorem test_reset_command : stOf (exec .reset (inSession .closed sess2)) = some .uninitialized := by decide +kernel

/-- P4 lines 13 and 15, and the worked CFG0 of R82. -/
theorem test_rd_status :
    answer (exec (.rd .status false) (inSession .ready { sess2 with osSeen := true })) = some ⟨.ok, true, 0x831⟩ ∧
    answer (exec (.rd .cfg0 false) (inSession .ready sess1)) = some ⟨.ok, true, 0x000001010000000A⟩ := by
  decide +kernel
/-- P4 lines 21, 22 and 25; a channel that does not exist reads unavailable. -/
theorem test_rd_snapshot :
    let s := inSession .refreshed sess2Refreshed
    (answer (exec (.rd .spG false) s), answer (exec (.rd (.sp 1) false) s), answer (exec (.rd .m false) s),
      answer (exec (.rd (.sp 5) false) s)) =
    (some ⟨.ok, true, 0x3FE0000000000000⟩, some ⟨.ok, true, 0x3FD0000000000000⟩, some ⟨.ok, false, 0⟩,
      some ⟨.ok, false, 0⟩) := by decide +kernel

/-- V-X1: one command, several faults: which answer comes first. -/
theorem test_priorities :
    [answer (step { inSession .closed sess1 with commands := [0x0200010000000001, 0x7FF8000000000000] }),
      answer (exec (.frame (List.replicate 9 quietNaN)) (inSession .closed sess2)),
      answer (exec (.frame [quietNaN]) (inSession .ready sess2)), answer (exec (.frame [quietNaN]) State.reset),
      answer (exec (.init 0 0 0) (inSession .ready sess2)), answer (exec (.init 0 0 0) (inSession .closed sess2)),
      answer (exec (.init 0 0 0) State.reset)] =
    [some ⟨.eIllegal, false, 0⟩, some ⟨.eTerminal, false, 0⟩, some ⟨.eIllegal, false, 0⟩, some ⟨.eSeq, false, 0⟩,
      some ⟨.eSeq, false, 0⟩, some ⟨.eTerminal, false, 0⟩, some ⟨.eConfig, false, 0⟩] := by decide +kernel

/-- The loudness of a full window of ones is the offset, whatever `LOG10` is (V-G1, first row). -/
theorem test_loud_of_unit_window :
    (windowAvg .momentary (pushAll .momentary (List.replicate 4 Config.one) (newIntegrator .momentary))).map loud =
      some Config.loudOfs := by
  have h : windowAvg .momentary (pushAll .momentary (List.replicate 4 Config.one) (newIntegrator .momentary)) =
      some Config.one := by decide +kernel
  rw [h, Option.map_some, loud_one]

/-! ### Witnesses: concrete states and operands that meet the hypotheses of the obligations -/

theorem witness_round_trip :
    wellFormed (.frame (List.replicate 255 Config.zero)) = true ∧ wellFormed (.osframe []) = true ∧
    wellFormed (.rd (.tp 7) true) = true ∧ wellFormed (.rd .m false) = true := by decide +kernel

theorem witness_canonical : decode [0x0720000100000000, 0x0500000000000000] =
    .command (.rd .spG true) [0x0500000000000000] := by decide

/-- StepConsumesDeclaredLength: one word short of the declared length, and exactly the declared length. -/
theorem witness_declared_length :
    (([0] : List W64).length < ((0x0200020000000000 : W64).extractLsb' 40 8).toNat) ∧
    (((0x0200020000000000 : W64).extractLsb' 40 8).toNat ≤ ([0, 0] : List W64).length) := by decide

/-- IllegalIffNotWellFormed and HeaderSelectsByMatchAndMask: an announced payload that has arrived, on a legal header
and on an illegal one. -/
theorem witness_header_classes :
    ((0x0100030000000000 : W64).extractLsb' 40 8).toNat = ([0, 0, 0] : List W64).length ∧
    decodeCommand 0x0100030000000000 [0, 0, 0] = .ok (.init 0 0 0) ∧
    ((0x0100020000000000 : W64).extractLsb' 40 8).toNat = ([0, 0] : List W64).length ∧
    decodeCommand 0x0100020000000000 [0, 0] = .error .wrongLength := by decide

theorem witness_step_runs : decode ({ inSession .ready sess2 with commands := [0x0500000000000000] } : State).commands =
    .command .close [] := by decide
theorem witness_step_refuses : decode ({ State.reset with commands := [0x0800000000000000] } : State).commands =
    .illegal .undefinedOp [] := by decide

/-- RefusedCommandChangesNothing and the first clause of StateTransitionTable: a command that raises. -/
theorem witness_refused : ∃ t r, exec .close State.reset = .next t ∧ t.responses = State.reset.responses ++ [r] ∧
    r.code ≠ .ok := ⟨_, ⟨.eSeq, false, 0⟩, rfl, rfl, by decide⟩

/-- The second clause of StateTransitionTable: an accepted FRAME that completes a block, and one that does not. -/
theorem witness_accepted :
    (answer (exec (.frame [half, negQuarter]) (inSession .accumulating sess2Running)) = some ⟨.ok, false, 0⟩ ∧
      sess2Running.nacc + 1 = sess2Running.blockLen) ∧
    (answer (exec (.frame [half, negQuarter]) (inSession .ready sess2)) = some ⟨.ok, false, 0⟩ ∧
      sess2.nacc + 1 ≠ sess2.blockLen) := by decide +kernel

theorem witness_closed : (inSession .closed sess2).facade = .active .closed sess2 := rfl
theorem witness_uninitialized : State.reset.facade = .uninitialized := rfl
theorem witness_live : (inSession .ready sess2).facade = .active .ready sess2 ∧ Phase.ready ≠ .closed ∧
    (inSession .refreshed sess2Refreshed).facade = .active .refreshed sess2Refreshed ∧ Phase.refreshed ≠ .closed :=
  ⟨rfl, by decide, rfl, by decide⟩

/-- FrozenAfterClose and ReadsLeaveNoTrace: a run of commands without RESET, after a CLOSE. -/
theorem witness_frozen_run : (∀ i ∈ [Instr.rd .status false, .frame [half], .close], i ≠ .reset) ∧
    ∃ t, execs [.rd .status false, .frame [half], .close] (inSession .closed sess2) = some t :=
  ⟨by decide, _, rfl⟩

/-- UninitializedReads and RdFollowsItsRule: `DB` on a peak selector, and no `DB` on another; the word of the selector
with the greatest number. -/
theorem witness_rd_operands : ((true = true → Selector.spG.isPeak = true)) ∧
    ((false = true → Selector.status.isPeak = true)) ∧ encode (.rd (.tp 7) true) = [0x0767000100000000] := by decide

/-- The payload condition as InitFollowsItsRule writes it. -/
abbrev payloadValid (w0 w1 w2 : W64) : Prop :=
  w0.extractLsb' 43 21 = 0 ∧ w0.extractLsb' 0 32 ≠ 0 ∧ (w0.extractLsb' 0 32).toNat % 10 = 0 ∧
  1 ≤ (w0.extractLsb' 32 8).toNat ∧ (w0.extractLsb' 32 8).toNat ≤ 8 ∧
  (∀ c, c < 8 → (c < (w0.extractLsb' 32 8).toNat → (w2.extractLsb' (8 * c) 8).toNat ≤ 1) ∧
    ((w0.extractLsb' 32 8).toNat ≤ c → w2.extractLsb' (8 * c) 8 = 0)) ∧
  (w0.getLsbD 42 = true → w0.extractLsb' 32 8 = 1 → isFinite ⟨w1⟩ = true ∧ fGt ⟨w1⟩ Config.zero = true)

theorem witness_init_eight_channels : payloadValid 0x0000030800000014 0 0x0101010101010101 :=
  ⟨by decide, by decide, by decide, by decide, by decide, by decide, by decide⟩
theorem witness_init_dual_mono : payloadValid 0x0000050100000014 0x3FE0000000000000 0 :=
  ⟨by decide, by decide, by decide, by decide, by decide, by decide, by decide⟩
theorem witness_init_invalid : ¬ payloadValid 0x0000050100000014 0 0 ∧ ¬ payloadValid 0x0000000900000014 0 0 :=
  ⟨fun h => absurd (h.2.2.2.2.2.2 (by decide) (by decide)).2 (by decide), fun h => absurd h.2.2.2.2.1 (by decide)⟩

/-- FrameFollowsItsRule and OsframeFollowsItsRule, clause by clause: a wrong length, a sample that is not finite,
an accepted frame. -/
theorem witness_frame_clauses :
    ([half].length ≠ sess2.nch.toNat) ∧
    ([half, quietNaN].length = sess2.nch.toNat ∧ ∃ x ∈ [half, quietNaN], isFinite x = false) ∧
    ([half, negQuarter].length = sess2.nch.toNat ∧ ∀ x ∈ [half, negQuarter], isFinite x = true) := by decide +kernel

/-- ChannelsAreIndependent: two machines whose channels 0 agree and whose channels 1 do not. -/
theorem witness_independent_channels :
    sess2.spEn = sess2Running.spEn ∧ sess2.pre = sess2Running.pre ∧ sess2.rlb = sess2Running.rlb ∧
    let r := { sess2 with chans := sess2.chans.set 1 { chan0 with acc := half } }
    [half, half].length = sess2.chans.length ∧ [half, negQuarter].length = r.chans.length ∧
    0 < [half, half].length ∧ sess2.chans[0]? = r.chans[0]? ∧ sess2.chans[1]? ≠ r.chans[1]? := by decide +kernel

/-- `sess2` after `OSFRAME 0.5, -0.25` in READY. -/
def sess2Oversampled : Session := foldTruePeaks [half, negQuarter] sess2

/-- CloseFollowsItsRule: a partial block under way, and none, in READY with `OSSEEN` set. -/
theorem witness_close_clauses : sess2Running.nacc ≠ 0 ∧ sess2.nacc = 0 ∧
    (inSession .ready sess2Oversampled).facade = .active .ready sess2Oversampled ∧ sess2Oversampled.nacc = 0 ∧
    sess2Oversampled.osSeen = true ∧ (publish sess2Oversampled).snap.tpG = some half ∧
    (publish sess2Oversampled).snap.spG = none := by decide +kernel

/-- PushFollowsItsRule at the first position and at the last, before and after the window has filled. -/
theorem witness_push :
    (let g := newIntegrator .momentary
     g.cache[g.pos.toNat]? = some Config.zero ∧ g.pos.toNat < Config.slots .momentary) ∧
    (let g := { newIntegrator .momentary with pos := 3 }
     g.cache[g.pos.toNat]? = some Config.zero ∧ g.pos.toNat < Config.slots .momentary) ∧
    (pushed.cache[pushed.pos.toNat]? = some Config.one ∧ pushed.filled = true) := by decide +kernel

theorem witness_pushes : (List.replicate 4 Config.one).length ≤ Config.slots .momentary ∧
    Config.slots .momentary ≤ 4 ∧ Config.slots .shortTerm ≤ 30 := by decide

/-- LoudFollowsItsRule and PeakDbFollowsItsRule: a value above zero, `+0.0`, and NaN. -/
theorem witness_loud : fGt half Config.zero = true ∧ fGt Config.zero Config.zero = false ∧
    fGt quietNaN Config.zero = false := by decide

/-- HistIdxFollowsItsRule, clause by clause: NaN, below the range, the first bucket's edge, inside, the last bucket's
edge, above. -/
theorem witness_hist_idx :
    let t : F64 → F64 := fun l => fMul (fSub l Config.histMin) Config.ten
    isNaN quietNaN = true ∧
    fLt (t ⟨0xC052C00000000000⟩) Config.zero = true ∧
    (fLt (t Config.histMin) Config.zero = false ∧ fGe (t Config.histMin) (fOfNat 800) = false ∧
      isNaN (t Config.histMin) = false) ∧
    (fLt (t Config.one) Config.zero = false ∧ fGe (t Config.one) (fOfNat 800) = false ∧ isNaN (t Config.one) = false) ∧
    (fLt (t Config.ten) Config.zero = false ∧ fGe (t Config.ten) (fOfNat 800) = true) ∧
    fGe (t Config.posInf) (fOfNat 800) = true := by decide +kernel

theorem witness_hist_order : fLe Config.zero Config.one = true ∧ fLe Config.negInf Config.zero = true ∧
    799 < 800 ∧ 800 < 801 := by decide

/-- An integrator whose window holds energy 1.0. -/
def unitWindow : Integrator := pushAll .momentary (List.replicate 4 Config.one) (newIntegrator .momentary)

theorem unitWindow_energy : fDiv unitWindow.sum (fOfNat (Config.slots .momentary)) = Config.one := by decide +kernel

/-- GateUpdateFollowsItsRule, clause by clause: not filled; silence; a window that is kept. -/
theorem witness_gate :
    (newIntegrator .momentary).filled = false ∧
    (let e := fDiv (newIntegrator .momentary).sum (fOfNat (Config.slots .momentary))
     fGt (loud e) ⟨0xC051800000000000⟩ = false) ∧
    (let e := fDiv unitWindow.sum (fOfNat (Config.slots .momentary))
     unitWindow.filled = true ∧ fGt (loud e) ⟨0xC051800000000000⟩ = true) := by
  refine ⟨by decide, ?_, by decide +kernel, ?_⟩
  · have h : fDiv (newIntegrator .momentary).sum (fOfNat (Config.slots .momentary)) = Config.zero := by decide +kernel
    have hl : loud Config.zero = Config.negInf := loud_of_not_pos (by decide)
    simp only [h, hl]
    decide
  · simp only [unitWindow_energy, loud_one]
    decide

/-- IntegratedIsGatedMean, PercentileBucketsFollowTheirRule and LraIsNonNegative: two occupied buckets, and one. -/
theorem witness_histogram :
    (counted [(600, 1), (693, 1)]).hist.length = Config.nb ∧
    lraBuckets (counted [(600, 1), (693, 1)]) = some (600, 693) ∧
    lraCompute (counted [(600, 1), (693, 1)]) = some (⟨0x4022999999999998⟩, loudRep 600, loudRep 693) ∧
    lraCompute (counted [(800, 5)]) = some (Config.zero, loudRep 800, loudRep 800) := by decide +kernel

/-- A run of `sess2` for TruePeakCoversSamplePeak: OSFRAME delivers every raw sample of channel 1; a FRAME and an
OSFRAME that are refused stand between. -/
def peakRun : List Instr :=
  [.frame [half, negQuarter], .frame [half], .osframe [half, negQuarter], .rd .tpG false, .osframe [half, quietNaN],
    .osframe [Config.zero, Config.one], .frame [Config.zero, Config.one]]

/-- PeakIsTheGreatestMagnitude, and the first clause of TruePeakCoversSamplePeak. -/
theorem witness_finite_samples : (∀ x ∈ [half, negQuarter, Config.one], isFinite x = true) ∧
    (∀ x ∈ [half, negQuarter], x ∈ [half, negQuarter, Config.one]) := by decide

/-- TruePeakCoversSamplePeak: its premises on the state and the run, for the last channel. -/
theorem witness_peak_run :
    sess2.chans.length = sess2.nch.toNat ∧ sess2.tpEn = true ∧ sess2.tpFail = false ∧
    sess2.chans[1]? = some chan0 ∧ chan0.spk = Config.zero ∧ chan0.tpk = Config.zero ∧
    (∀ i ∈ peakRun, isStreaming i = true) := by decide +kernel
/-- The same: what the run delivers to that channel; the raw samples are among the oversampled ones. -/
theorem witness_peak_run_samples :
    rawSamples 2 1 peakRun = [negQuarter, Config.one] ∧ oversampledSamples 2 1 peakRun = [negQuarter, Config.one] ∧
    (∀ x ∈ rawSamples 2 1 peakRun, x ∈ oversampledSamples 2 1 peakRun) := by decide

/-- WireForms: a request at the largest channel count. -/
theorem witness_rsreq : (List.replicate 8 half).length ≤ 8 ∧
    eventWords (.rsreq (List.replicate 8 half) 4) =
      0x0108000000000000 :: 4 :: List.replicate 8 0x3FE0000000000000 := by decide
/-- IntegersConvertExactly: the last integer below `2^53`, and a finite value between two integers. -/
theorem witness_integer : 2 ^ 53 - 1 < 2 ^ 53 ∧ isFinite negQuarter = true ∧ fFloor negQuarter = -1 := by decide +kernel

/-- RoundingIsToNearestEven, on `roundUnits`: one and a half units lie between two neighbours, and the even one is
taken. -/
theorem witness_tie :
    0 < 2 ∧ (3 : Int).natAbs < overflowUnits * 2 ∧ isFinite ⟨1⟩ = true ∧
    signedUnits (roundUnits false 3 2) = 2 ∧ signedUnits ⟨1⟩ ≠ signedUnits (roundUnits false 3 2) ∧
    ((3 : Int) - signedUnits (roundUnits false 3 2) * 2).natAbs = ((3 : Int) - signedUnits ⟨1⟩ * 2).natAbs := by
  decide +kernel
/-- The same, on the operations: an exact zero, a divisor, and the largest finite value, whose double is past the range
and whose sum with 0.5 is not. -/
theorem witness_finite_operands :
    let top : F64 := ⟨0x7FEFFFFFFFFFFFFF⟩
    isFinite top = true ∧ isFinite half = true ∧ signedUnits half ≠ 0 ∧ signedUnits half - signedUnits half = 0 ∧
    overflowUnits * 1 ≤ (signedUnits top + signedUnits top).natAbs ∧
    (signedUnits top + signedUnits half).natAbs < overflowUnits * 1 := by decide +kernel

/-- The same, on the comparisons: the two zeros, the smallest subnormal, the largest finite value, an infinity, a NaN. -/
theorem witness_compared_operands :
    let negZero : F64 := ⟨0x8000000000000000⟩
    let top : F64 := ⟨0x7FEFFFFFFFFFFFFF⟩
    isFinite negZero = true ∧ signedUnits negZero = signedUnits Config.zero ∧ fEq negZero Config.zero = true ∧
    isFinite ⟨1⟩ = true ∧ signedUnits Config.zero < signedUnits ⟨1⟩ ∧ isFinite top = true ∧
    isNaN Config.posInf = false ∧ isNaN quietNaN = true ∧ fLe quietNaN quietNaN = false := by decide +kernel

/-- StepKeepsConfiguration, StepKeepsCounters, StepKeepsWindows, StepKeepsPeaks, StepKeepsPublishedLoudness: a session
with a block under way has every invariant. -/
theorem witness_invariants : OnSession (fun ph r => ConfigInv r ∧ CounterInv ph r ∧ WindowsInv r ∧ PeakInv r ∧
    PublishedInv r) (inSession .accumulating sess2Running) := by
  refine ⟨⟨?_, ?_, ?_, ?_, ?_, ?_, ?_, ?_, ?_⟩, ⟨?_, ?_, ?_, ?_⟩, ⟨⟨?_, ?_, ?_, ?_, ?_, ?_⟩, ⟨?_, ?_, ?_, ?_, ?_, ?_⟩, ?_⟩,
    ⟨?_, ?_, ?_, ?_, ?_, ?_, ?_⟩, ⟨?_, ?_, ?_, ?_, ?_, ?_⟩⟩
  all_goals first
    | decide +kernel
    | exact fun _ k _ hk => List.getElem?_replicate_of_lt hk
    | (simp only [PeakOk]; decide +kernel)

/-- The five invariant statements: a step from that state. -/
theorem witness_invariant_step :
    ∃ t, step { inSession .accumulating sess2Running with commands := [0x0500000000000000] } = .next t := ⟨_, rfl⟩

/-- InvariantsHoldAtStart: an INIT in UNINITIALIZED that answers. -/
theorem witness_init_answers : ∃ t, exec (.init 0x0000030200000014 0 0) State.reset = .next t := ⟨_, rfl⟩

/-- PeaksNeverDecrease: a frame in a session with the peak invariant, and its last channel. -/
theorem witness_peak_frame : PeakInv sess2Running ∧
    ∃ t ph' r', exec (.frame [half, negQuarter]) (inSession .accumulating sess2Running) = .next t ∧
      t.facade = .active ph' r' ∧ ∃ c, sess2Running.chans[1]? = some c :=
  ⟨witness_invariants.2.2.2.1, _, _, _, rfl, rfl, _, rfl⟩

/-- OutputsDependOnFacadeAlone: one facade, different streams. -/
theorem witness_same_facade :
    (inSession .ready sess2).facade = ({ inSession .ready sess2 with events := [.refresh] } : State).facade := rfl

/-- TruePeakPathIsIsolated: two machines that differ in `TP_FAIL` and `OSSEEN` alone, run on the same commands. -/
theorem witness_isolated :
    OnSession (fun _ r => r.chans.length = r.nch.toNat) (inSession .ready sess2) ∧
    facadeWithoutTruePeak (inSession .ready sess2).facade =
      facadeWithoutTruePeak (inSession .ready { sess2 with tpFail := true, osSeen := true }).facade ∧
    (∃ t, execs [.osfail, .frame [half, negQuarter]] (inSession .ready sess2) = some t) ∧
    ∃ t, execs [.osfail, .frame [half, negQuarter]] (inSession .ready { sess2 with tpFail := true, osSeen := true }) =
      some t := by
  refine ⟨?_, ?_, ⟨_, rfl⟩, ⟨_, rfl⟩⟩
  · simp only [OnSession, inSession]; decide +kernel
  · rfl

end Sys2Proof.Tests
end

section
/-! SUPPORT. The rounding that the four operations share (00_scope.md R11, R15), as encodings and as values: within a
binade the representable values are the multiples of `2^e` units, and `roundMag` takes the nearest of them, the even
one of two equally near. -/

namespace Sys2Proof.Machine

/-! ### The encoding with a given sign and magnitude field -/

/-- The encoding with a sign and bits 62:0; `roundUnits`, `signedZero` and `signedInf` are of this form. -/
def ofSignMag (neg : Bool) (m : Nat) : F64 := ⟨BitVec.ofBool neg ++ BitVec.ofNat 63 m⟩

theorem roundUnits_eq (neg : Bool) (n d : Nat) : roundUnits neg n d = ofSignMag neg (roundMag n d) := rfl
theorem signedZero_eq (neg : Bool) : signedZero neg = ofSignMag neg 0 := rfl
theorem signedInf_eq (neg : Bool) : signedInf neg = ofSignMag neg (2047 * 2 ^ 52) := rfl

@[simp] theorem ofSignMag_sign (neg : Bool) (m : Nat) : (ofSignMag neg m).sign = neg := by
  simp only [ofSignMag, F64.sign]
  rw [BitVec.getLsbD_append]
  simp

theorem ofSignMag_mag (neg : Bool) {m : Nat} (h : m < 2 ^ 63) : (ofSignMag neg m).mag = m := by
  have : (ofSignMag neg m).bits.extractLsb' 0 63 = BitVec.ofNat 63 m := by
    simp only [ofSignMag]
    exact BitVec.extractLsb'_append_eq_right
  simp only [F64.mag, this, BitVec.toNat_ofNat, Nat.mod_eq_of_lt h]

/-- The last bit of the encoding is the parity of its magnitude field. -/
theorem ofSignMag_lsb (neg : Bool) (m : Nat) : (ofSignMag neg m).bits.getLsbD 0 = decide (m % 2 = 1) := by
  simp only [ofSignMag]
  rw [BitVec.getLsbD_append]
  simp only [BitVec.getLsbD_ofNat, Nat.testBit_zero]
  simp

@[simp] theorem unitsOf_signedZero (neg : Bool) : unitsOf (signedZero neg) = 0 := by cases neg <;> decide

theorem signedUnits_eq_zero_iff (a : F64) : signedUnits a = 0 ↔ unitsOf a = 0 := by
  simp only [signedUnits]
  cases a.sign <;> simp

theorem isFinite_iff_mag_lt (a : F64) : isFinite a = true ↔ a.mag < 2047 * 2 ^ 52 := by
  have hm := mag_eq a
  have hf := frac_lt a
  have he := expo_lt a
  simp only [isFinite, bne_iff_ne, ne_eq]
  omega

/-- The `t`-th grid point of binade `e` (0 for the subnormals and the first normal binade), and the first of the next
binade with them, stands at `e * 2^52 + t`. -/
theorem unitsOf_of_mag_eq {a : F64} {e t : Nat} (h : a.mag = e * 2 ^ 52 + t) (hlo : e = 0 ∨ 2 ^ 52 ≤ t)
    (hhi : t ≤ 2 ^ 53) : unitsOf a = t * 2 ^ e := by
  have hm := mag_eq a
  have hf := frac_lt a
  simp only [unitsOf]
  rcases Nat.lt_or_ge t (2 ^ 52) with hsub | hnorm
  · obtain rfl : e = 0 := by omega
    rw [if_pos (by omega), Nat.pow_zero]
    omega
  rcases Nat.lt_or_ge t (2 ^ 53) with hlt | hcarry
  · rw [show a.expo = e + 1 by omega, if_neg (by omega), show a.frac + 2 ^ 52 = t by omega, Nat.add_sub_cancel]
  · obtain rfl : t = 2 ^ 53 := by omega
    rw [show a.expo = e + 2 by omega, if_neg (by omega), show a.frac = 0 by omega, show e + 2 - 1 = e + 1 by omega,
      Nat.pow_succ]
    omega

/-- No value lies strictly between two neighbouring grid points. -/
theorem unitsOf_le_or_ge_grid {e t : Nat} (z : F64) (he : e ≤ 2045) (hlo : e = 0 ∨ 2 ^ 52 ≤ t) (hhi : t < 2 ^ 53) :
    unitsOf z ≤ t * 2 ^ e ∨ (t + 1) * 2 ^ e ≤ unitsOf z := by
  have hbelow := ofSignMag_mag false (m := e * 2 ^ 52 + t) (by omega)
  have habove := ofSignMag_mag false (m := e * 2 ^ 52 + (t + 1)) (by omega)
  rw [← unitsOf_of_mag_eq hbelow hlo hhi.le, ← unitsOf_of_mag_eq habove (by omega) hhi]
  have h1 := unitsOf_lt_iff (ofSignMag false (e * 2 ^ 52 + t)) z
  have h2 := unitsOf_lt_iff z (ofSignMag false (e * 2 ^ 52 + (t + 1)))
  omega

/-! ### Rounding a fraction to a whole number of grid steps -/

/-- `n / g` rounded to a whole number, ties to even. -/
def roundSteps (n g : Nat) : Nat :=
  if g < 2 * (n % g) ∨ (2 * (n % g) = g ∧ n / g % 2 = 1) then n / g + 1 else n / g

/-- The two directions of rounding, and when each is taken. -/
theorem roundSteps_cases (n g : Nat) :
    (roundSteps n g = n / g ∧ 2 * (n % g) ≤ g ∧ (2 * (n % g) = g → roundSteps n g % 2 = 0)) ∨
    (roundSteps n g = n / g + 1 ∧ g ≤ 2 * (n % g) ∧ (2 * (n % g) = g → roundSteps n g % 2 = 0)) := by
  simp only [roundSteps]
  split <;> omega

theorem roundSteps_mul (k : Nat) {g : Nat} (hg : 0 < g) : roundSteps (k * g) g = k := by
  simp [roundSteps, Nat.mul_div_cancel k hg, hg.ne]

/-- Of the numbers outside the gap between the two grid points around `n`, none is nearer to `n` than the
rounded one, and an equally near other one leaves it even. -/
theorem roundSteps_nearest {n g x : Nat} (hg : 0 < g) (hx : x ≤ n / g * g ∨ (n / g + 1) * g ≤ x) :
    ((n : Int) - (roundSteps n g * g : Nat)).natAbs ≤ ((n : Int) - x).natAbs ∧
    (x ≠ roundSteps n g * g → ((n : Int) - (roundSteps n g * g : Nat)).natAbs = ((n : Int) - x).natAbs →
      roundSteps n g % 2 = 0) := by
  have hn := Nat.div_add_mod' n g
  have hlt := Nat.mod_lt n hg
  rw [Nat.succ_mul] at hx
  rcases roundSteps_cases n g with ⟨hs, hr, heven⟩ | ⟨hs, hr, heven⟩ <;> rw [hs] at heven ⊢
  · omega
  · rw [Nat.succ_mul]; omega

/-! ### The binade -/

/-- The binade `roundMag` rounds `n / d` units in. -/
def binade (n d : Nat) : Nat := Nat.log2 (n / d) - 52

/-- The steps of `2^binade` units that `n / d` units round to. -/
def binadeSteps (n d : Nat) : Nat := roundSteps n (d * 2 ^ binade n d)

theorem roundMag_eq (n d : Nat) :
    roundMag n d = min (binade n d * 2 ^ 52 + binadeSteps n d) (2047 * 2 ^ 52) := rfl

theorem roundMag_lt (n d : Nat) : roundMag n d < 2 ^ 63 := by rw [roundMag_eq]; omega

theorem binade_lo (n d : Nat) : binade n d = 0 ∨ 2 ^ 52 ≤ n / (d * 2 ^ binade n d) := by
  refine or_iff_not_imp_left.2 fun h => ?_
  have hq : n / d ≠ 0 := fun h0 => h (by simp [binade, h0])
  have hlog : 52 + binade n d = (n / d).log2 := by simp only [binade] at h ⊢; omega
  rw [← Nat.div_div_eq_div_mul, Nat.le_div_iff_mul_le (Nat.two_pow_pos _), ← Nat.pow_add, hlog]
  exact Nat.log2_self_le hq

theorem binade_hi (n d : Nat) : n / (d * 2 ^ binade n d) < 2 ^ 53 := by
  rw [← Nat.div_div_eq_div_mul, Nat.div_lt_iff_lt_mul (Nat.two_pow_pos _), ← Nat.pow_add]
  calc n / d < 2 ^ ((n / d).log2 + 1) := Nat.lt_log2_self
    _ ≤ 2 ^ (53 + binade n d) := Nat.pow_le_pow_right (by omega) (by simp only [binade]; omega)

theorem binade_le {n d k : Nat} (hd : 0 < d) (h : n < 2 ^ 53 * (d * 2 ^ k)) : binade n d ≤ k := by
  by_cases hq : n / d = 0
  · simp [binade, hq]
  · have := (Nat.log2_lt (k := 53 + k) hq).2 ((Nat.div_lt_iff_lt_mul hd).2 (by
      rwa [Nat.pow_add, Nat.mul_assoc, Nat.mul_comm _ d]))
    simp only [binade]
    omega

theorem le_binade {n d k : Nat} (hd : 0 < d) (h : 2 ^ 52 * (d * 2 ^ k) ≤ n) : k ≤ binade n d := by
  have hle : 2 ^ (52 + k) ≤ n / d := (Nat.le_div_iff_mul_le hd).2 (by
    rwa [Nat.pow_add, Nat.mul_assoc, Nat.mul_comm _ d])
  have hq : n / d ≠ 0 := (Nat.lt_of_lt_of_le (Nat.two_pow_pos _) hle).ne'
  have := (Nat.le_log2 hq).2 hle
  simp only [binade]
  omega

theorem binadeSteps_le (n d : Nat) : binadeSteps n d ≤ 2 ^ 53 := by
  have := binade_hi n d
  rcases roundSteps_cases n (d * 2 ^ binade n d) with ⟨hs, -⟩ | ⟨hs, -⟩ <;> rw [binadeSteps, hs] <;> omega

theorem binadeSteps_lo (n d : Nat) : binade n d = 0 ∨ 2 ^ 52 ≤ binadeSteps n d := by
  have := binade_lo n d
  rcases roundSteps_cases n (d * 2 ^ binade n d) with ⟨hs, -⟩ | ⟨hs, -⟩ <;> rw [binadeSteps, hs] <;> omega

/-! ### Overflow -/

/-- The threshold lies half a step of the last binade beyond its last grid point, whose step count is odd. -/
theorem overflowUnits_mul (d : Nat) : 2 * (overflowUnits * d) = (2 ^ 54 - 1) * (d * 2 ^ 2045) := by
  have h : 2 * overflowUnits = (2 ^ 54 - 1) * 2 ^ 2045 := by decide +kernel
  rw [← Nat.mul_assoc, h, Nat.mul_assoc, Nat.mul_comm (2 ^ 2045)]

/-- A magnitude at the threshold or beyond it is rounded to the encoding of infinity. -/
theorem roundMag_of_overflow {n d : Nat} (hd : 0 < d) (h : overflowUnits * d ≤ n) :
    roundMag n d = 2047 * 2 ^ 52 := by
  have hmul := overflowUnits_mul d
  have hbinade : 2045 ≤ binade n d := le_binade hd (by omega)
  have hlo := binadeSteps_lo n d
  rw [roundMag_eq]
  rcases hbinade.lt_or_eq with hgt | heq
  · omega
  have hgrid : 0 < d * 2 ^ binade n d := Nat.mul_pos hd (Nat.two_pow_pos _)
  have hhi := binade_hi n d
  have hn := Nat.div_add_mod' n (d * 2 ^ 2045)
  have hcases := roundSteps_cases n (d * 2 ^ 2045)
  rw [← heq] at hgrid hhi
  rw [binadeSteps, ← heq]
  have hlast : n / (d * 2 ^ 2045) = 2 ^ 53 - 1 := by
    have : 2 ^ 53 - 1 ≤ n / (d * 2 ^ 2045) := (Nat.le_div_iff_mul_le hgrid).2 (by omega)
    omega
  rw [hlast] at hn hcases
  omega

/-- Below the threshold the encoding is that of a finite value. -/
theorem encoding_lt_of_lt_overflow {n d : Nat} (hd : 0 < d) (h : n < overflowUnits * d) :
    binade n d ≤ 2045 ∧ binade n d * 2 ^ 52 + binadeSteps n d < 2047 * 2 ^ 52 := by
  have hmul := overflowUnits_mul d
  have hbinade : binade n d ≤ 2045 := binade_le hd (by omega)
  have hsteps := binadeSteps_le n d
  refine ⟨hbinade, ?_⟩
  rcases hbinade.lt_or_eq with hlt | heq
  · omega
  have hn := Nat.div_add_mod' n (d * 2 ^ 2045)
  have hhi := binade_hi n d
  have hcases := roundSteps_cases n (d * 2 ^ 2045)
  rw [heq] at hhi
  rw [binadeSteps, heq]
  rcases Nat.lt_or_ge (n / (d * 2 ^ 2045)) (2 ^ 53 - 1) with hlt | hge
  · omega
  · rw [show n / (d * 2 ^ 2045) = 2 ^ 53 - 1 by omega] at hn hcases
    omega

/-! ### The rounded value -/

@[simp] theorem roundUnits_sign (neg : Bool) (n d : Nat) : (roundUnits neg n d).sign = neg := ofSignMag_sign ..

theorem roundUnits_of_overflow (neg : Bool) {n d : Nat} (hd : 0 < d) (h : overflowUnits * d ≤ n) :
    roundUnits neg n d = signedInf neg := by
  rw [roundUnits_eq, signedInf_eq, roundMag_of_overflow hd h]

theorem roundUnits_zero (neg : Bool) (d : Nat) : roundUnits neg 0 d = signedZero neg := by
  simp [roundUnits_eq, signedZero_eq, roundMag]

section
variable {n d : Nat} (hd : 0 < d) (h : n < overflowUnits * d)
include hd h

theorem roundMag_of_lt_overflow : roundMag n d = binade n d * 2 ^ 52 + binadeSteps n d := by
  have := encoding_lt_of_lt_overflow hd h
  rw [roundMag_eq]
  omega

theorem isFinite_roundUnits (neg : Bool) : isFinite (roundUnits neg n d) = true := by
  rw [isFinite_iff_mag_lt, roundUnits_eq, ofSignMag_mag neg (roundMag_lt n d), roundMag_of_lt_overflow hd h]
  exact (encoding_lt_of_lt_overflow hd h).2

theorem unitsOf_roundUnits (neg : Bool) : unitsOf (roundUnits neg n d) = binadeSteps n d * 2 ^ binade n d := by
  refine unitsOf_of_mag_eq ?_ (binadeSteps_lo n d) (binadeSteps_le n d)
  rw [roundUnits_eq, ofSignMag_mag neg (roundMag_lt n d), roundMag_of_lt_overflow hd h]

theorem roundUnits_lsb (neg : Bool) :
    (roundUnits neg n d).bits.getLsbD 0 = decide (binadeSteps n d % 2 = 1) := by
  rw [roundUnits_eq, ofSignMag_lsb, roundMag_of_lt_overflow hd h]
  congr 1
  rw [eq_iff_iff]
  omega

/-- No magnitude of a value is nearer to `n / d` than the rounded one, and an equally near other one leaves the even
last bit to it. -/
theorem unitsOf_roundUnits_nearest (neg : Bool) (z : F64) :
    ((n : Int) - unitsOf (roundUnits neg n d) * d).natAbs ≤ ((n : Int) - unitsOf z * d).natAbs ∧
    (unitsOf z ≠ unitsOf (roundUnits neg n d) →
      ((n : Int) - unitsOf (roundUnits neg n d) * d).natAbs = ((n : Int) - unitsOf z * d).natAbs →
      (roundUnits neg n d).bits.getLsbD 0 = false) := by
  have hsplit (t : Nat) : t * (d * 2 ^ binade n d) = t * 2 ^ binade n d * d := by
    rw [Nat.mul_comm d, Nat.mul_assoc]
  have hgrid : roundSteps n (d * 2 ^ binade n d) * (d * 2 ^ binade n d) = unitsOf (roundUnits neg n d) * d := by
    rw [unitsOf_roundUnits hd h, binadeSteps, hsplit]
  have hgap : unitsOf z * d ≤ n / (d * 2 ^ binade n d) * (d * 2 ^ binade n d) ∨
      (n / (d * 2 ^ binade n d) + 1) * (d * 2 ^ binade n d) ≤ unitsOf z * d := by
    rw [hsplit, hsplit]
    exact (unitsOf_le_or_ge_grid z (encoding_lt_of_lt_overflow hd h).1 (binade_lo n d) (binade_hi n d)).imp
      (Nat.mul_le_mul_right d) (Nat.mul_le_mul_right d)
  obtain ⟨hnear, heven⟩ := roundSteps_nearest (Nat.mul_pos hd (Nat.two_pow_pos _)) hgap
  rw [hgrid] at hnear heven
  push_cast at hnear heven
  refine ⟨hnear, fun hne heq => ?_⟩
  have := heven (fun hmul => hne (Nat.eq_of_mul_eq_mul_right hd hmul)) heq
  rw [roundUnits_lsb hd h, binadeSteps, this]
  rfl

end

/-- A value with the sign of `±n / d` is as near to it as its magnitude is to `n / d`. -/
theorem natAbs_sub_signedUnits {neg : Bool} {z : F64} (h : z.sign = neg) (n d : Nat) :
    ((if neg = true then -(n : Int) else n) - signedUnits z * d).natAbs = ((n : Int) - unitsOf z * d).natAbs := by
  simp only [signedUnits, h]
  cases neg
  · simp
  · simp only [if_true]
    rw [← Int.natAbs_neg]
    congr 1
    ring

/-- A value of the other sign is as far from it as the two magnitudes together. -/
theorem natAbs_sub_signedUnits_of_ne {neg : Bool} {z : F64} (h : z.sign ≠ neg) (n d : Nat) :
    ((if neg = true then -(n : Int) else n) - signedUnits z * d).natAbs = n + unitsOf z * d := by
  simp only [signedUnits]
  cases neg <;> cases hz : z.sign <;> simp [hz] at h ⊢ <;> omega

/-- So a value of either sign is not nearer to `±n / d` than its magnitude is to `n / d`. -/
theorem natAbs_sub_unitsOf_le (neg : Bool) (n d : Nat) (z : F64) :
    ((n : Int) - unitsOf z * d).natAbs ≤ ((if neg = true then -(n : Int) else n) - signedUnits z * d).natAbs := by
  by_cases h : z.sign = neg
  · rw [natAbs_sub_signedUnits h]
  · rw [natAbs_sub_signedUnits_of_ne h, ← Nat.cast_mul]
    omega

/-- Where a different value is equally near to `±n / d`, the last bit of the result is 0. A value of the other sign can
only be equally near when it is a zero, the result being no farther than zero is. -/
theorem roundUnits_lsb_of_tie {neg : Bool} {n d : Nat} {z : F64} (hd : 0 < d) (h : n < overflowUnits * d)
    (hne : signedUnits z ≠ signedUnits (roundUnits neg n d))
    (htie : ((n : Int) - unitsOf (roundUnits neg n d) * d).natAbs =
      ((if neg = true then -(n : Int) else n) - signedUnits z * d).natAbs) :
    (roundUnits neg n d).bits.getLsbD 0 = false := by
  have heven := (unitsOf_roundUnits_nearest hd h neg z).2
  by_cases hsign : z.sign = neg
  · refine heven (fun hu => hne ?_) (htie.trans (natAbs_sub_signedUnits hsign n d))
    simp only [signedUnits, hu, hsign, roundUnits_sign]
  · have hzero := (unitsOf_roundUnits_nearest hd h neg (signedZero neg)).1
    rw [natAbs_sub_signedUnits_of_ne hsign] at htie
    rw [unitsOf_signedZero] at hzero
    have hz : unitsOf z = 0 := by
      have : unitsOf z * d = 0 := by omega
      exact (Nat.mul_eq_zero.1 this).resolve_right hd.ne'
    refine heven (fun hu => hne ?_) (by rw [htie, hz]; simp)
    rw [(signedUnits_eq_zero_iff z).2 hz, (signedUnits_eq_zero_iff _).2 (hu ▸ hz)]

/-- The rounding that the operations share is to nearest, ties to even, with the sign of its exact argument. -/
theorem roundUnits_roundsTo (neg : Bool) (n : Nat) {d : Nat} (hd : 0 < d) :
    RoundsTo (roundUnits neg n d) (if neg = true then -(n : Int) else n) d := by
  have habs : (if neg = true then -(n : Int) else n).natAbs = n := by cases neg <;> simp
  have hneg (hn : n ≠ 0) : decide ((if neg = true then -(n : Int) else n) < 0) = neg := by
    cases neg
    · simp
    · simpa using Nat.pos_of_ne_zero hn
  have hdist := natAbs_sub_signedUnits (roundUnits_sign neg n d) n d
  constructor <;> intro h
  case overflow =>
    rw [habs] at h
    have hpos : 0 < overflowUnits * d := Nat.mul_pos (by decide +kernel) hd
    rw [hneg (by omega), roundUnits_of_overflow neg hd h]
  case finite => exact isFinite_roundUnits hd (habs ▸ h) neg
  case nearest =>
    intro z _
    rw [habs] at h
    rw [hdist]
    exact (unitsOf_roundUnits_nearest hd h neg z).1.trans (natAbs_sub_unitsOf_le neg n d z)
  case even => exact fun z _ hne htie => roundUnits_lsb_of_tie hd (habs ▸ h) hne (hdist ▸ htie)
  case sign => exact (roundUnits_sign neg n d).trans (hneg (habs ▸ Int.natAbs_ne_zero.2 h)).symm

/-! ### The operations -/

theorem unitsOfOne_pos : 0 < unitsOfOne := Nat.pos_of_ne_zero (by decide +kernel)

theorem two_pow_eq_unitsOfOne : 2 ^ 1074 = unitsOfOne := rfl
theorem int_two_pow_eq_unitsOfOne : (2 : Int) ^ 1074 = unitsOfOne := (Nat.cast_pow 2 1074).symm

/-- Addition and subtraction, from their exact result. -/
theorem sum_roundsTo (zeroNeg : Bool) (v : Int) :
    RoundsTo (if v = 0 then signedZero zeroNeg else roundUnits (decide (v < 0)) v.natAbs 1) v 1 := by
  split
  next hv =>
    rw [hv, ← roundUnits_zero zeroNeg 1]
    simpa using roundUnits_roundsTo zeroNeg 0 Nat.one_pos
  next =>
    have h := roundUnits_roundsTo (decide (v < 0)) v.natAbs Nat.one_pos
    have hval : (if decide (v < 0) = true then -(v.natAbs : Int) else v.natAbs) = v := by
      simp only [decide_eq_true_eq]
      omega
    rwa [hval] at h

theorem fAdd_roundsTo {a b : F64} (ha : isFinite a = true) (hb : isFinite b = true) :
    RoundsTo (fAdd a b) (signedUnits a + signedUnits b) 1 := by
  rw [fAdd_finite ha hb]
  exact sum_roundsTo ..

theorem fSub_roundsTo {a b : F64} (ha : isFinite a = true) (hb : isFinite b = true) :
    RoundsTo (fSub a b) (signedUnits a - signedUnits b) 1 := by
  rw [fSub_finite ha hb]
  exact sum_roundsTo ..

theorem signedUnits_mul (a b : F64) :
    signedUnits a * signedUnits b =
      if (a.sign != b.sign) = true then -((unitsOf a * unitsOf b : Nat) : Int) else (unitsOf a * unitsOf b : Nat) := by
  simp only [signedUnits]
  cases a.sign <;> cases b.sign <;> simp

theorem fMul_roundsTo {a b : F64} (ha : isFinite a = true) (hb : isFinite b = true) :
    RoundsTo (fMul a b) (signedUnits a * signedUnits b) unitsOfOne := by
  rw [fMul_finite ha hb, signedUnits_mul]
  exact roundUnits_roundsTo _ _ unitsOfOne_pos

theorem fMul_eq_signedZero {a b : F64} (ha : isFinite a = true) (hb : isFinite b = true)
    (h : signedUnits a * signedUnits b = 0) : fMul a b = signedZero (a.sign != b.sign) := by
  have : unitsOf a * unitsOf b = 0 := by
    simpa only [mul_eq_zero, signedUnits_eq_zero_iff] using h
  rw [fMul_finite ha hb, this, roundUnits_zero]

theorem mag_ne_zero_of_signedUnits {b : F64} (h : signedUnits b ≠ 0) : b.mag ≠ 0 := by
  rwa [ne_eq, ← unitsOf_eq_zero_iff, ← signedUnits_eq_zero_iff]

/-- The exact quotient as a fraction over the divisor's magnitude. -/
theorem signedUnits_div (a b : F64) (k : Nat) :
    (if b.sign = true then -(signedUnits a * k) else signedUnits a * k) =
      if (a.sign != b.sign) = true then -((unitsOf a * k : Nat) : Int) else (unitsOf a * k : Nat) := by
  simp only [signedUnits]
  cases a.sign <;> cases b.sign <;> simp

theorem fDiv_roundsTo {a b : F64} (ha : isFinite a = true) (hb : isFinite b = true) (h0 : signedUnits b ≠ 0) :
    RoundsTo (fDiv a b)
      (if b.sign = true then -(signedUnits a * unitsOfOne) else signedUnits a * unitsOfOne) (unitsOf b) := by
  rw [fDiv_finite ha hb (mag_ne_zero_of_signedUnits h0), signedUnits_div]
  exact roundUnits_roundsTo _ _ (Nat.pos_of_ne_zero ((signedUnits_eq_zero_iff b).not.1 h0))

theorem fDiv_eq_signedZero {a b : F64} (ha : isFinite a = true) (hb : isFinite b = true) (h0 : signedUnits b ≠ 0)
    (h : signedUnits a = 0) : fDiv a b = signedZero (a.sign != b.sign) := by
  rw [fDiv_finite ha hb (mag_ne_zero_of_signedUnits h0), (signedUnits_eq_zero_iff a).1 h, Nat.zero_mul,
    roundUnits_zero]

/-! ### Integers -/

/-- A whole number of the steps it would be rounded to is its own rounding. -/
theorem unitsOf_roundUnits_of_dvd (neg : Bool) {n : Nat} (h : n < overflowUnits * 1) (hdvd : 2 ^ binade n 1 ∣ n) :
    unitsOf (roundUnits neg n 1) = n := by
  obtain ⟨k, hk⟩ := hdvd
  have hsteps : binadeSteps n 1 = k := by
    rw [binadeSteps, Nat.one_mul]
    nth_rw 1 [hk]
    rw [Nat.mul_comm]
    exact roundSteps_mul k (Nat.two_pow_pos _)
  rw [unitsOf_roundUnits Nat.one_pos h, hsteps, Nat.mul_comm, ← hk]

theorem fOfNat_lt_overflow {n : Nat} (h : n < 2 ^ 53) : n * unitsOfOne < overflowUnits * 1 := by
  calc n * unitsOfOne < 2 ^ 53 * unitsOfOne := Nat.mul_lt_mul_of_pos_right h unitsOfOne_pos
    _ ≤ overflowUnits * 1 := by decide +kernel

theorem isFinite_fOfNat {n : Nat} (h : n < 2 ^ 53) : isFinite (fOfNat n) = true :=
  isFinite_roundUnits Nat.one_pos (fOfNat_lt_overflow h) false

theorem unitsOf_fOfNat {n : Nat} (h : n < 2 ^ 53) : unitsOf (fOfNat n) = n * unitsOfOne := by
  have hbinade : binade (n * unitsOfOne) 1 ≤ 1074 := by
    refine binade_le Nat.one_pos ?_
    rw [Nat.one_mul, two_pow_eq_unitsOfOne]
    exact Nat.mul_lt_mul_of_pos_right h unitsOfOne_pos
  have hdvd : 2 ^ binade (n * unitsOfOne) 1 ∣ unitsOfOne := two_pow_eq_unitsOfOne ▸ pow_dvd_pow 2 hbinade
  exact unitsOf_roundUnits_of_dvd false (fOfNat_lt_overflow h) (hdvd.mul_left n)

theorem fOfNat_roundsTo (n : Nat) : RoundsTo (fOfNat n) (n * unitsOfOne) 1 := by
  have h := roundUnits_roundsTo false (n * unitsOfOne) Nat.one_pos
  rwa [if_neg Bool.false_ne_true, Nat.cast_mul] at h

@[simp] theorem fOfNat_sign (n : Nat) : (fOfNat n).sign = false := roundUnits_sign ..

theorem fFloor_fOfNat {n : Nat} (h : n < 2 ^ 53) : fFloor (fOfNat n) = n := by
  rw [fFloor, signedUnits, fOfNat_sign, if_neg Bool.false_ne_true, unitsOf_fOfNat h, Nat.cast_mul]
  exact Int.mul_ediv_cancel _ (by exact_mod_cast unitsOfOne_pos.ne')

/-! ### The comparisons -/

theorem fLt_finite {a b : F64} (ha : isFinite a = true) (hb : isFinite b = true) :
    fLt a b = true ↔ signedUnits a < signedUnits b := by
  simp [fLt, isNaN_of_finite ha, isNaN_of_finite hb, orderKey_lt_iff]

theorem fLe_eq_not_fLt {a b : F64} (ha : isNaN a = false) (hb : isNaN b = false) : fLe a b = !fLt b a := by
  simp [fLe, fLt, ha, hb, ← decide_not]

theorem fEq_eq_fLe_and_fLe {a b : F64} (ha : isNaN a = false) (hb : isNaN b = false) :
    fEq a b = (fLe a b && fLe b a) := by
  simp only [fEq, fLe, ha, hb, Bool.not_false, Bool.true_and]
  rw [Bool.eq_iff_iff, Bool.and_eq_true, beq_iff_eq, decide_eq_true_eq, decide_eq_true_eq, Int.le_antisymm_iff]

theorem fLe_finite {a b : F64} (ha : isFinite a = true) (hb : isFinite b = true) :
    fLe a b = true ↔ signedUnits a ≤ signedUnits b := by
  rw [fLe_eq_not_fLt (isNaN_of_finite ha) (isNaN_of_finite hb), Bool.not_eq_true', ← Bool.not_eq_true, fLt_finite hb ha,
    not_lt]

theorem fEq_finite {a b : F64} (ha : isFinite a = true) (hb : isFinite b = true) :
    fEq a b = true ↔ signedUnits a = signedUnits b := by
  rw [fEq_eq_fLe_and_fLe (isNaN_of_finite ha) (isNaN_of_finite hb), Bool.and_eq_true, fLe_finite ha hb,
    fLe_finite hb ha, Int.le_antisymm_iff]

/-- A finite value's key lies strictly between those of the infinities. -/
theorem orderKey_finite {a : F64} (h : isFinite a = true) :
    orderKey (signedInf true) < orderKey a ∧ orderKey a < orderKey (signedInf false) := by
  have hmag := (isFinite_iff_mag_lt a).1 h
  have hpos : orderKey (signedInf false) = 2047 * 2 ^ 52 := by decide
  have hneg : orderKey (signedInf true) = -(2047 * 2 ^ 52) := by decide
  rw [hpos, hneg]
  simp only [orderKey]
  split <;> omega

theorem fLt_posInf {a : F64} (h : isFinite a = true) : fLt a (signedInf false) = true := by
  have hinf : isNaN (signedInf false) = false := by decide
  simp [fLt, isNaN_of_finite h, hinf, (orderKey_finite h).2]

theorem negInf_fLt {a : F64} (h : isFinite a = true) : fLt (signedInf true) a = true := by
  have hinf : isNaN (signedInf true) = false := by decide
  simp [fLt, isNaN_of_finite h, hinf, (orderKey_finite h).1]

/-- Every comparison with a NaN is false (R15). -/
theorem compare_isNaN {a b : F64} (h : isNaN a = true ∨ isNaN b = true) :
    fLt a b = false ∧ fLe a b = false ∧ fGt a b = false ∧ fGe a b = false ∧ fEq a b = false := by
  rcases h with h | h <;> simp [fLt, fLe, fGt, fGe, fEq, h]

/-! ### The statements -/

/-- The fields of the encoding and the value they give (R11, R15). -/
theorem encoding_fields (a : F64) :
    (isFinite a = true ↔ a.bits.extractLsb' 52 11 ≠ 0x7FF) ∧
    (isNaN a = true ↔ a.bits.extractLsb' 52 11 = 0x7FF ∧ a.bits.extractLsb' 0 52 ≠ 0) ∧
    (a.bits.extractLsb' 52 11 = 0 → unitsOf a = (a.bits.extractLsb' 0 52).toNat) ∧
    (a.bits.extractLsb' 52 11 ≠ 0 →
      unitsOf a = (2 ^ 52 + (a.bits.extractLsb' 0 52).toNat) * 2 ^ ((a.bits.extractLsb' 52 11).toNat - 1)) := by
  refine ⟨?_, ?_, fun h => ?_, fun h => ?_⟩
  · simp [isFinite, F64.expo, ← BitVec.toNat_inj]
  · simp [isNaN, F64.expo, F64.frac, ← BitVec.toNat_inj]
  · have he : a.expo = 0 := congrArg BitVec.toNat h
    rw [unitsOf, if_pos he, F64.frac]
  · have he : a.expo ≠ 0 := fun h0 => h (BitVec.eq_of_toNat_eq h0)
    rw [unitsOf, if_neg he, Nat.add_comm, F64.frac, F64.expo]

/-- Settles O49: an integer below `2^53` is a whole number of the steps of its binade, so rounding leaves it; the floor
is the quotient by the units of 1.0. -/
theorem integersConvertExactly : Obligations.IntegersConvertExactly := by
  refine ⟨fun n hn => ⟨isFinite_fOfNat hn, fOfNat_sign n, unitsOf_fOfNat hn, fFloor_fOfNat hn⟩, fun n => ?_,
    fun a _ => ?_⟩
  · rw [int_two_pow_eq_unitsOfOne]
    exact fOfNat_roundsTo n
  · have hpos : (0 : Int) < unitsOfOne := Int.natCast_pos.2 unitsOfOne_pos
    rw [int_two_pow_eq_unitsOfOne, fFloor]
    exact ⟨Int.ediv_mul_le _ hpos.ne', Int.lt_ediv_add_one_mul_self _ hpos⟩

/-- Settles O50: clause by clause from the laws of the encoding, the comparisons and the one rounding. -/
theorem roundingIsToNearestEven : Obligations.RoundingIsToNearestEven := by
  refine ⟨fun a => ?fields, by decide, fun a b ha hb => ?finite, fun a => ?infinities, fun a b ha hb => ?order,
    fun a b h => compare_isNaN h, fun neg n d hd => ⟨roundUnits_roundsTo neg n hd, roundUnits_sign neg n d⟩,
    fun a b ha hb => ⟨⟨fAdd_roundsTo ha hb, ?add⟩, ⟨fSub_roundsTo ha hb, ?sub⟩, ⟨?mul, fMul_eq_signedZero ha hb⟩,
      fun h0 => ⟨?div, fDiv_eq_signedZero ha hb h0⟩⟩⟩
  case fields =>
    obtain ⟨hfinite, hnan, hsub, hnorm⟩ := encoding_fields a
    exact ⟨hfinite, hnan, rfl, rfl, hsub, hnorm, rfl⟩
  case finite =>
    exact ⟨fLt_finite ha hb, fLe_finite ha hb, fLt_finite hb ha, fLe_finite hb ha, fEq_finite ha hb⟩
  case infinities =>
    refine ⟨?_, ?_⟩ <;> rintro (h | rfl)
    · exact fLt_posInf h
    · decide
    · exact negInf_fLt h
    · decide
  case order => exact ⟨rfl, rfl, fLe_eq_not_fLt ha hb, fEq_eq_fLe_and_fLe ha hb⟩
  case add => exact fun h => by rw [fAdd_finite ha hb, if_pos h]
  case sub => exact fun h => by rw [fSub_finite ha hb, if_pos h]
  case mul => exact fMul_roundsTo ha hb
  case div =>
    rw [int_two_pow_eq_unitsOfOne]
    exact fDiv_roundsTo ha hb h0

end Sys2Proof.Machine
end

section
/-! SUPPORT. The configuration and the counters under every change to a session (10_state.md R23 to R26). -/

namespace Sys2Proof.Machine

/-! ### The configuration (O51) -/

/-- `ConfigInv` speaks of the configuration and of the weights alone. -/
theorem ConfigInv.congr {r r' : Session} (h : ConfigInv r)
    (hcfg : (r'.rate, r'.nch, r'.dualMono, r'.panw, r'.classes, r'.blockLen, r'.pre, r'.rlb) =
      (r.rate, r.nch, r.dualMono, r.panw, r.classes, r.blockLen, r.pre, r.rlb))
    (hw : r'.chans.map Channel.w = r.chans.map Channel.w) : ConfigInv r' := by
  simp only [Prod.mk.injEq] at hcfg
  obtain ⟨hrate, hnch, hdual, hpanw, hcls, hlen, hpre, hrlb⟩ := hcfg
  constructor <;> simp only [hrate, hnch, hdual, hpanw, hcls, hlen, hpre, hrlb, hw]
  exacts [h.nch_range, h.rate_ok, h.block_len, h.classes_len, h.classes_ok, h.panw_ok, h.pre_ok, h.rlb_ok, h.weights]

theorem ConfigInv.chans_length {r : Session} (h : ConfigInv r) : r.chans.length = r.nch.toNat := by
  have hlen := congrArg List.length h.weights
  have hmax : r.nch.toNat ≤ 8 := h.nch_range.2
  simp only [List.length_map, List.length_take, h.classes_len] at hlen
  omega

/-- A pass over the channels of a frame that leaves a register of each alone leaves its list alone, when there are
enough samples. -/
theorem map_zipWith_of_frame {α : Type} (reg : Channel → α) {f : F64 → Channel → Channel}
    (hf : ∀ x c, reg (f x c) = reg c) {xs : List F64} {cs : List Channel} (h : cs.length ≤ xs.length) :
    (List.zipWith f xs cs).map reg = cs.map reg := by
  induction xs generalizing cs with
  | nil => simp_all
  | cons x xs ih =>
    cases cs with
    | nil => rfl
    | cons c cs => simp_all

theorem blockCycle_weights (n : Nat) (r : Session) :
    (blockCycle n r).chans.map Channel.w = r.chans.map Channel.w := by
  simp [Function.comp_def]

theorem ConfigInv.blockCycle {r : Session} (h : ConfigInv r) (n : Nat) : ConfigInv (blockCycle n r) :=
  h.congr rfl (blockCycle_weights n r)

theorem ConfigInv.ingestFrame {r : Session} (h : ConfigInv r) {xs : List F64} (hl : xs.length = r.nch.toNat) :
    ConfigInv (ingestFrame xs r) :=
  h.congr rfl (map_zipWith_of_frame _ (ingestSample_w _ _ _) (by rw [hl, h.chans_length]))

theorem ConfigInv.foldTruePeaks {r : Session} (h : ConfigInv r) {ys : List F64} (hl : ys.length = r.nch.toNat) :
    ConfigInv (foldTruePeaks ys r) :=
  h.congr rfl (map_zipWith_of_frame _ truePeakSample_w (by rw [hl, h.chans_length]))

/-- What the checks of INIT on its payload give (R156, R187). -/
theorem initPayloadOk_iff (w0 w1 w2 : W64) : initPayloadOk w0 w1 w2 = true ↔
    initReserved w0 = 0 ∧ (initRate w0 ≠ 0 ∧ (initRate w0).toNat % 10 = 0) ∧
    (1 ≤ (initNch w0).toNat ∧ (initNch w0).toNat ≤ Config.maxCh) ∧
    classesOk (initNch w0).toNat (classBytes w2) = true ∧ panwOk (initDualMono w0) (initNch w0) ⟨w1⟩ = true := by
  have hslots : 1 ≤ Config.slots .momentary ∧ 1 ≤ Config.slots .shortTerm := by decide
  simp [initPayloadOk, hslots, and_assoc]

theorem classBytes_length (w2 : W64) : (classBytes w2).length = 8 := by simp [classBytes]

/-- The session INIT creates has the configuration invariant. -/
theorem configInv_newSession {w0 w1 w2 : W64} {st : Stage × Stage} (hok : initPayloadOk w0 w1 w2 = true)
    (hst : Config.coef (initRate w0) = some st) : ConfigInv (newSession w0 w1 w2 st) := by
  obtain ⟨_, hrate, hnch, hcls, hpanw⟩ := (initPayloadOk_iff w0 w1 w2).1 hok
  obtain ⟨hpre, hrlb⟩ := Config.coef_stages_ok hst
  exact
    { nch_range := hnch, rate_ok := hrate, block_len := rfl, classes_len := classBytes_length w2,
      classes_ok := hcls, panw_ok := hpanw, pre_ok := hpre, rlb_ok := hrlb,
      weights := by simp [newSession, newChannel, Function.comp_def] }

theorem configInv_stable : SessionStable (fun _ r => ConfigInv r) where
  init _ _ _ _ hok hst := configInv_newSession hok hst
  frame _ _ _ h _ hl _ := ⟨fun _ => (h.ingestFrame hl).blockCycle _, fun _ => h.ingestFrame hl⟩
  osframe _ _ _ h _ hl _ _ := h.foldTruePeaks hl
  osfail _ _ h _ _ := h.congr rfl rfl
  close _ _ h _ := ⟨fun _ => h.blockCycle _, fun _ => h.congr rfl rfl⟩

/-- Settles O51: no command after INIT writes the configuration or a weight. -/
theorem stepKeepsConfiguration : Obligations.StepKeepsConfiguration := fun _ _ hs h =>
  step_preserves configInv_stable hs h

/-! ### The counters (O52) -/

/-- In CLOSED the count is 0, and only `BLOCK_LEN > 0` is left to ask. -/
theorem counterInv_closed {r : Session} (hpos : 0 < r.blockLen.toNat) (hn : r.nacc = 0) : CounterInv .closed r where
  nacc_lt := by simpa [hn] using hpos
  accumulating_iff := by simp [hn]
  ready_unseen := nofun
  running_seen := nofun

theorem CounterInv.blockLen_pos {ph : Phase} {r : Session} (h : CounterInv ph r) : 0 < r.blockLen.toNat :=
  Nat.zero_lt_of_lt h.nacc_lt

/-- A frame that completes its block (R155). -/
theorem counterInv_refreshed {r : Session} (hpos : 0 < r.blockLen.toNat) (hn : r.nacc = 0) (hseen : r.seen = true) :
    CounterInv .refreshed r where
  nacc_lt := by simpa [hn] using hpos
  accumulating_iff := by simp [hn]
  ready_unseen := nofun
  running_seen _ := hseen

/-- A frame that does not complete its block (R155): the count has not reached `BLOCK_LEN`, so it does not wrap. -/
theorem CounterInv.ingestFrame {ph : Phase} {r : Session} (h : CounterInv ph r) (xs : List F64)
    (hne : r.nacc + 1 ≠ r.blockLen) : CounterInv .accumulating (ingestFrame xs r) := by
  have hlt := h.nacc_lt
  have hnat : (r.nacc + 1).toNat = r.nacc.toNat + 1 := by
    rw [BitVec.toNat_add_of_lt] <;> simp; omega
  have hne' : (r.nacc + 1).toNat ≠ r.blockLen.toNat := fun e => hne (BitVec.eq_of_toNat_eq e)
  refine ⟨?_, ?_, nofun, fun _ => rfl⟩
  · simp only [ingestFrame_nacc, ingestFrame_blockLen]; omega
  · simp only [ingestFrame_nacc, true_iff]
    intro h0
    have hzero : (r.nacc + 1).toNat = 0 := congrArg BitVec.toNat h0
    omega

theorem counterInv_newSession {w0 w1 w2 : W64} (st : Stage × Stage) (hok : initPayloadOk w0 w1 w2 = true) :
    CounterInv .ready (newSession w0 w1 w2 st) where
  nacc_lt := by
    obtain ⟨_, ⟨hne, hmod⟩, _⟩ := (initPayloadOk_iff w0 w1 w2).1 hok
    have hne' : (initRate w0).toNat ≠ 0 := fun e => hne (BitVec.eq_of_toNat_eq e)
    change (0#32).toNat < (initRate w0 / 10#32).toNat
    simp only [BitVec.toNat_udiv, BitVec.reduceToNat]
    omega
  accumulating_iff := by simp [newSession]
  ready_unseen _ := rfl
  running_seen := nofun

theorem counterInv_stable : SessionStable CounterInv where
  init _ _ _ st hok _ := counterInv_newSession st hok
  frame _ _ xs h _ _ _ := ⟨fun _ => counterInv_refreshed h.blockLen_pos rfl rfl, h.ingestFrame xs⟩
  osframe _ _ _ h _ _ _ _ := ⟨h.nacc_lt, h.accumulating_iff, h.ready_unseen, h.running_seen⟩
  osfail _ _ h _ _ := ⟨h.nacc_lt, h.accumulating_iff, h.ready_unseen, h.running_seen⟩
  close _ _ h _ := ⟨fun _ => counterInv_closed h.blockLen_pos rfl, fun hn => counterInv_closed h.blockLen_pos hn⟩

/-- Settles O52: a frame counts up to `BLOCK_LEN` and a block cycle begins again at 0. -/
theorem stepKeepsCounters : Obligations.StepKeepsCounters := fun _ _ hs h => step_preserves counterInv_stable hs h

end Sys2Proof.Machine
end

section
/-! SUPPORT. The integrators (10_state.md R27 to R29): a push, a run of pushes, and a gate update. -/

namespace Sys2Proof.Machine

/-! ### Pushes -/

theorem slots_pos (w : Win) : 0 < Config.slots w := by cases w <;> decide

theorem slots_lt (w : Win) : Config.slots w < 2 ^ 8 := by cases w <;> decide

theorem nextPos_lt (w : Win) (g : Integrator) : nextPos w g < Config.slots w := Nat.mod_lt _ (slots_pos w)

/-- The position register is wide enough for every position. -/
theorem pushPower_pos_toNat (w : Win) (p : F64) (g : Integrator) : (pushPower w p g).pos.toNat = nextPos w g := by
  rw [pushPower_pos, BitVec.toNat_ofNat, Nat.mod_eq_of_lt ((nextPos_lt w g).trans (slots_lt w))]

/-- A window that a push leaves unfilled was not filled, and the position has gone one on. -/
theorem pushPower_unfilled {w : Win} {p : F64} {g : Integrator} (hpos : g.pos.toNat < Config.slots w)
    (h : (pushPower w p g).filled = false) : g.filled = false ∧ nextPos w g = g.pos.toNat + 1 := by
  simp only [pushPower_filled, Bool.or_eq_false_iff, beq_eq_false_iff_ne] at h
  obtain ⟨hunfilled, hnext⟩ := h
  refine ⟨hunfilled, Nat.mod_eq_of_lt (lt_of_le_of_ne hpos fun e => hnext ?_)⟩
  rw [nextPos, show g.pos.toNat + 1 = Config.slots w from e, Nat.mod_self]

theorem IntegratorInv.pushPower {w : Win} {g : Integrator} (h : IntegratorInv w g) (p : F64) :
    IntegratorInv w (pushPower w p g) where
  cache_len := by simp [h.cache_len]
  pos_lt := by rw [pushPower_pos_toNat]; exact nextPos_lt w g
  hist_len := h.hist_len
  count := h.count
  unfilled_zero hf k hk hlt := by
    obtain ⟨hunfilled, hnext⟩ := pushPower_unfilled h.pos_lt hf
    rw [pushPower_pos_toNat, hnext] at hk
    rw [pushPower_cache, List.getElem?_set_ne (by omega)]
    exact h.unfilled_zero hunfilled k (by omega) hlt
  unfilled_none_kept hf := h.unfilled_none_kept (pushPower_unfilled h.pos_lt hf).1

/-- Two windows at the same position: while the 400 ms one stays unfilled, so does the 3 s one, and they move on
together (R110). -/
theorem pushPower_in_step {g0 g1 : Integrator} (p : F64) (hpos : g0.pos.toNat < Config.slots .momentary)
    (h : g0.filled = false → g1.filled = false ∧ g1.pos = g0.pos) (hf : (pushPower .momentary p g0).filled = false) :
    (pushPower .shortTerm p g1).filled = false ∧
      (pushPower .shortTerm p g1).pos = (pushPower .momentary p g0).pos := by
  obtain ⟨hunfilled, hnext⟩ := pushPower_unfilled hpos hf
  obtain ⟨hf1, hpos1⟩ := h hunfilled
  have hslots : Config.slots .momentary < Config.slots .shortTerm := by decide
  have hnext1 : nextPos .shortTerm g1 = g0.pos.toNat + 1 := by
    rw [nextPos, hpos1, Nat.mod_eq_of_lt (by omega)]
  simp [hf1, hnext, hnext1]

/-! ### A run of pushes into a new integrator (O33) -/

@[simp] theorem pushAll_nil (w : Win) (g : Integrator) : pushAll w [] g = g := rfl

theorem pushAll_append_singleton (w : Win) (ps : List F64) (p : F64) (g : Integrator) :
    pushAll w (ps ++ [p]) g = pushPower w p (pushAll w ps g) := by
  simp [pushAll]

theorem pushAll_pos (w : Win) (ps : List F64) :
    (pushAll w ps (newIntegrator w)).pos.toNat = ps.length % Config.slots w := by
  induction ps using List.reverseRecOn with
  | nil => simp [newIntegrator]
  | append_singleton ps p ih =>
    rw [pushAll_append_singleton, pushPower_pos_toNat, nextPos, ih, Nat.mod_add_mod, List.length_append,
      List.length_singleton]

/-- The position comes back to 0 for the first time with the `SLOTS[w]`-th push (R113). -/
theorem pushAll_filled (w : Win) (ps : List F64) :
    (pushAll w ps (newIntegrator w)).filled = true ↔ Config.slots w ≤ ps.length := by
  have hs := slots_pos w
  induction ps using List.reverseRecOn with
  | nil => simpa [newIntegrator] using hs.ne'
  | append_singleton ps p ih =>
    simp only [pushAll_append_singleton, pushPower_filled, nextPos, pushAll_pos, Nat.mod_add_mod, Bool.or_eq_true, ih,
      beq_iff_eq, List.length_append, List.length_singleton]
    constructor
    · rintro (h | h)
      · omega
      · exact Nat.le_of_dvd (Nat.succ_pos _) (Nat.dvd_of_mod_eq_zero h)
    · intro h
      rcases h.eq_or_lt with h | h
      · right; rw [← h, Nat.mod_self]
      · left; omega

/-- Up to the filling nothing is evicted: the cache holds the powers in order and the sum is theirs (R111). -/
theorem pushAll_cache_sum (w : Win) (ps : List F64) (h : ps.length ≤ Config.slots w) :
    (pushAll w ps (newIntegrator w)).cache = ps ++ List.replicate (Config.slots w - ps.length) Config.zero ∧
      (pushAll w ps (newIntegrator w)).sum = ps.foldl fAdd Config.zero := by
  induction ps using List.reverseRecOn with
  | nil => exact ⟨rfl, rfl⟩
  | append_singleton ps p ih =>
    have hlt : ps.length < Config.slots w := by simpa using h
    obtain ⟨hcache, hsum⟩ := ih hlt.le
    have hunfilled : (pushAll w ps (newIntegrator w)).filled = false := by
      rw [← Bool.not_eq_true, pushAll_filled]; omega
    obtain ⟨k, hk⟩ := Nat.exists_eq_add_of_lt hlt
    rw [pushAll_append_singleton]
    constructor
    · rw [pushPower_cache, pushAll_pos, Nat.mod_eq_of_lt hlt, hcache, hk]
      have hrest : ps.length + k + 1 - (ps.length + 1) = k := by omega
      simp [List.replicate_succ, hrest, show ps.length + k + 1 - ps.length = k + 1 by omega]
    · simp [Machine.pushPower, hunfilled, hsum]

/-- Settles O33. -/
theorem integratorFillsAfterSlotsPushes : Obligations.IntegratorFillsAfterSlotsPushes := fun w ps =>
  ⟨pushAll_filled w ps, pushAll_pos w ps, pushAll_cache_sum w ps⟩

/-! ### The bucket of a loudness -/

/-- A rounded value may overflow to an infinity, but is no NaN. -/
theorem isNaN_roundUnits (neg : Bool) (n d : Nat) : isNaN (roundUnits neg n d) = false := by
  have hm := mag_eq (roundUnits neg n d)
  have hmag : (roundUnits neg n d).mag = roundMag n d := by
    rw [roundUnits_eq, ofSignMag_mag neg (roundMag_lt n d)]
  have hle : roundMag n d ≤ 2047 * 2 ^ 52 := by rw [roundMag_eq]; omega
  simp only [isNaN, Bool.and_eq_false_iff, beq_eq_false_iff_ne, bne_eq_false_iff_eq]
  omega

theorem isNaN_signedInf (neg : Bool) : isNaN (signedInf neg) = false := by cases neg <;> decide

theorem isNaN_signedZero (neg : Bool) : isNaN (signedZero neg) = false := by cases neg <;> decide

/-- A value that is no NaN and no infinity is finite. -/
theorem isFinite_of_not_isNaN_of_not_isInf {a : F64} (hn : isNaN a = false) (hi : isInf a = false) :
    isFinite a = true := by
  simp only [isNaN, isInf, isFinite, Bool.and_eq_false_iff, beq_eq_false_iff_ne, bne_eq_false_iff_eq, bne_iff_ne] at *
  tauto

/-- A finite value may be subtracted from anything but a NaN. -/
theorem isNaN_fSub_of_finite {a b : F64} (ha : isNaN a = false) (hb : isFinite b = true) : isNaN (fSub a b) = false := by
  cases hi : isInf a
  · rw [fSub_finite (isFinite_of_not_isNaN_of_not_isInf ha hi) hb]
    split
    · exact isNaN_signedZero _
    · exact isNaN_roundUnits _ _ _
  · have hb' : isFinite (fNeg b) = true := by simpa using hb
    simp [fSub, addAs, ha, hi, isNaN_of_finite hb', isInf_of_finite hb', isNaN_signedInf]

/-- Anything but a NaN may be multiplied by a finite value that is not zero. -/
theorem isNaN_fMul_of_finite {a b : F64} (ha : isNaN a = false) (hb : isFinite b = true) (h0 : b.mag ≠ 0) :
    isNaN (fMul a b) = false := by
  cases hi : isInf a
  · rw [fMul_finite (isFinite_of_not_isNaN_of_not_isInf ha hi) hb]
    exact isNaN_roundUnits _ _ _
  · have hmag : a.mag ≠ 0 := by
      have := mag_eq a
      simp only [isInf, Bool.and_eq_true, beq_iff_eq] at hi
      omega
    simp [fMul, ha, hi, isNaN_of_finite hb, hmag, h0, isNaN_signedInf]

/-- A number that is neither below one finite value nor at or above another lies between them. -/
theorem signedUnits_bounds {t a b : F64} (ht : isNaN t = false) (ha : isFinite a = true) (hb : isFinite b = true)
    (hlo : fLt t a = false) (hhi : fGe t b = false) : signedUnits a ≤ signedUnits t ∧ signedUnits t < signedUnits b := by
  have hkeylo : orderKey a ≤ orderKey t := by simpa [fLt, ht, isNaN_of_finite ha] using hlo
  have hkeyhi : orderKey t < orderKey b := by simpa [fGe, fLe, ht, isNaN_of_finite hb] using hhi
  exact ⟨not_lt.1 (mt (orderKey_lt_iff t a).2 (not_lt.2 hkeylo)), (orderKey_lt_iff t b).1 hkeyhi⟩

theorem signedUnits_fOfNat {n : Nat} (h : n < 2 ^ 53) : signedUnits (fOfNat n) = n * unitsOfOne := by
  rw [signedUnits, fOfNat_sign, if_neg Bool.false_ne_true, unitsOf_fOfNat h, Nat.cast_mul]

theorem mag_fOfNat_ne_zero {n : Nat} (h0 : n ≠ 0) (h : n < 2 ^ 53) : (fOfNat n).mag ≠ 0 := by
  rw [ne_eq, ← unitsOf_eq_zero_iff, unitsOf_fOfNat h]
  exact Nat.mul_ne_zero h0 unitsOfOne_pos.ne'

/-- Every loudness has one of the `NB` buckets (R122). -/
theorem histIdx_lt (l : F64) : histIdx l < Config.nb := by
  have hnb : 0 < Config.nb := by decide
  unfold histIdx
  split_ifs with hnone
  · exact hnb
  dsimp only
  split_ifs with hlo hhi
  · exact hnb
  · exact Nat.sub_lt hnb Nat.one_pos
  · obtain ⟨hl, -⟩ : isNaN l = false ∧ l ≠ Config.negInf := by simpa using hnone
    have ht := isNaN_fMul_of_finite (isNaN_fSub_of_finite hl (by decide : isFinite Config.histMin = true))
      (isFinite_fOfNat (n := Config.histRes) (by decide)) (mag_fOfNat_ne_zero (by decide) (by decide))
    obtain ⟨-, hlt⟩ := signedUnits_bounds ht (by decide : isFinite Config.zero = true)
      (isFinite_fOfNat (n := Config.nb - 1) (by decide)) (by simpa using hlo) (by simpa using hhi)
    rw [signedUnits_fOfNat (by decide)] at hlt
    have hfloor := Int.ediv_lt_of_lt_mul (Int.natCast_pos.2 unitsOfOne_pos) hlt
    simp only [fFloor]
    omega

/-! ### The gate -/

theorem sum_bump {k : Nat} {hist : List Nat} (h : k < hist.length) : (bump k hist).sum = hist.sum + 1 := by
  induction hist generalizing k with
  | nil => simp at h
  | cons n hist ih =>
    cases k with
    | zero => simp [bump, Nat.add_right_comm]
    | succ k =>
      have ih := ih (Nat.lt_of_succ_lt_succ h)
      simp_all [bump, Nat.add_assoc]

theorem IntegratorInv.gateUpdate {w : Win} {g : Integrator} (h : IntegratorInv w g) :
    IntegratorInv w (gateUpdate w g) := by
  rcases gateUpdate_cases w g with hg | ⟨hfilled, _, hg⟩
  · rwa [hg]
  · rw [hg]
    have hbucket := histIdx_lt (loud (windowEnergy w g))
    exact
      { cache_len := h.cache_len, pos_lt := h.pos_lt
        hist_len := by simp [keepWindow, bump, h.hist_len]
        count := by simp [keepWindow, sum_bump (h.hist_len ▸ hbucket), h.count]
        unfilled_zero := h.unfilled_zero
        unfilled_none_kept := fun hf => absurd hf (by simp [hfilled]) }

/-! ### The invariant of both windows (O53) -/

theorem integratorInv_new (w : Win) : IntegratorInv w (newIntegrator w) where
  cache_len := List.length_replicate
  pos_lt := slots_pos w
  hist_len := List.length_replicate
  count := by simp [newIntegrator]
  unfilled_zero _ _ _ hk := List.getElem?_replicate_of_lt hk
  unfilled_none_kept _ := rfl

theorem windowsInv_newSession (w0 w1 w2 : W64) (st : Stage × Stage) : WindowsInv (newSession w0 w1 w2 st) :=
  ⟨integratorInv_new .momentary, integratorInv_new .shortTerm, fun _ => ⟨rfl, rfl⟩⟩

theorem WindowsInv.blockCycle {r : Session} (h : WindowsInv r) (n : Nat) : WindowsInv (blockCycle n r) where
  momentary := (h.momentary.pushPower _).gateUpdate
  shortTerm := (h.shortTerm.pushPower _).gateUpdate
  in_step := by
    simp only [blockCycle_int0, blockCycle_int1, gateUpdate_filled, gateUpdate_pos]
    exact pushPower_in_step _ h.momentary.pos_lt h.in_step

/-- `WindowsInv` speaks of the integrators alone. -/
theorem WindowsInv.congr {r r' : Session} (h : WindowsInv r) (h0 : r'.int0 = r.int0) (h1 : r'.int1 = r.int1) :
    WindowsInv r' :=
  ⟨h0 ▸ h.momentary, h1 ▸ h.shortTerm, h0 ▸ h1 ▸ h.in_step⟩

theorem windowsInv_stable : SessionStable (fun _ r => WindowsInv r) where
  init w0 w1 w2 st _ _ := windowsInv_newSession w0 w1 w2 st
  frame _ _ xs h _ _ _ := ⟨fun _ => (h.congr (ingestFrame_int0 xs _) (ingestFrame_int1 xs _)).blockCycle _,
    fun _ => h.congr rfl rfl⟩
  osframe _ _ _ h _ _ _ _ := h.congr rfl rfl
  osfail _ _ h _ _ := h.congr rfl rfl
  close _ _ h _ := ⟨fun _ => h.blockCycle _, fun _ => h.congr rfl rfl⟩

/-- Settles O53: only a block cycle moves the integrators, by a push and a gate update each. -/
theorem stepKeepsWindows : Obligations.StepKeepsWindows := fun _ _ hs h => step_preserves windowsInv_stable hs h

end Sys2Proof.Machine
end

section
/-! SUPPORT. The peak registers (10_state.md R30, R31): on finite values that are not negative `raisePeak` is the
greater of two, so the order in which samples raise a peak does not matter. -/

namespace Sys2Proof.Machine

/-! ### The greater of two peaks -/

@[simp] theorem fAbs_sign (a : F64) : (fAbs a).sign = false := by simp [fAbs, F64.sign]

@[simp] theorem fAbs_expo (a : F64) : (fAbs a).expo = a.expo := by
  have : (fAbs a).bits.extractLsb' 52 11 = a.bits.extractLsb' 52 11 := by
    simp only [fAbs, BitVec.extractLsb'_and]
    exact BitVec.and_allOnes
  simp only [F64.expo, this]

theorem peakOk_fAbs {x : F64} (h : isFinite x = true) : PeakOk (fAbs x) :=
  ⟨by simpa [isFinite] using h, fAbs_sign x⟩

theorem peakOk_zero : PeakOk Config.zero := ⟨by decide, by decide⟩

theorem raisePeak_eq_or (a p : F64) : raisePeak a p = a ∨ raisePeak a p = p := by
  unfold raisePeak; split <;> simp

theorem PeakOk.raisePeak {a p : F64} (ha : PeakOk a) (hp : PeakOk p) : PeakOk (raisePeak a p) := by
  rcases raisePeak_eq_or a p with h | h <;> rwa [h]

/-- Among peaks the encoding orders the values. -/
theorem PeakOk.fLt_iff {a b : F64} (ha : PeakOk a) (hb : PeakOk b) : fLt a b = true ↔ a.mag < b.mag := by
  simp [fLt, orderKey, isNaN_of_finite ha.1, isNaN_of_finite hb.1, ha.2, hb.2]

theorem PeakOk.fLe_iff {a b : F64} (ha : PeakOk a) (hb : PeakOk b) : fLe a b = true ↔ a.mag ≤ b.mag := by
  simp [fLe, orderKey, isNaN_of_finite ha.1, isNaN_of_finite hb.1, ha.2, hb.2]

theorem PeakOk.fLe_refl {a : F64} (ha : PeakOk a) : fLe a a = true := (ha.fLe_iff ha).2 le_rfl

theorem PeakOk.raisePeak_mag {a p : F64} (ha : PeakOk a) (hp : PeakOk p) :
    (Machine.raisePeak a p).mag = max a.mag p.mag := by
  unfold Machine.raisePeak fGt
  by_cases h : p.mag < a.mag
  · rw [if_pos ((hp.fLt_iff ha).2 h), max_eq_left h.le]
  · rw [if_neg (mt (hp.fLt_iff ha).1 h), max_eq_right (not_lt.1 h)]

/-- A peak never falls when a value raises it (R30). -/
theorem PeakOk.fLe_raisePeak {a p : F64} (ha : PeakOk a) (hp : PeakOk p) : fLe p (Machine.raisePeak a p) = true := by
  rw [hp.fLe_iff (ha.raisePeak hp), ha.raisePeak_mag hp]
  exact le_max_right _ _

/-- Two peaks of one magnitude have one encoding. -/
theorem PeakOk.eq_of_mag_eq {a b : F64} (ha : PeakOk a) (hb : PeakOk b) (h : a.mag = b.mag) : a = b := by
  have hlow : a.bits.extractLsb' 0 63 = b.bits.extractLsb' 0 63 := BitVec.eq_of_toNat_eq h
  have hsign : a.bits.getLsbD 63 = b.bits.getLsbD 63 := ha.2.trans hb.2.symm
  refine congrArg F64.mk (BitVec.eq_of_getLsbD_eq fun i hi => ?_)
  rcases (Nat.le_of_lt_succ hi).lt_or_eq with hi | rfl
  · have hbit := congrArg (BitVec.getLsbD · i) hlow
    simpa [hi] using hbit
  · exact hsign

theorem PeakOk.raisePeak_left_comm {a b p : F64} (ha : PeakOk a) (hb : PeakOk b) (hp : PeakOk p) :
    Machine.raisePeak a (Machine.raisePeak b p) = Machine.raisePeak b (Machine.raisePeak a p) := by
  refine (ha.raisePeak (hb.raisePeak hp)).eq_of_mag_eq (hb.raisePeak (ha.raisePeak hp)) ?_
  rw [ha.raisePeak_mag (hb.raisePeak hp), hb.raisePeak_mag (ha.raisePeak hp), hb.raisePeak_mag hp, ha.raisePeak_mag hp]
  exact max_left_comm _ _ _

theorem PeakOk.raisePeak_assoc {a b p : F64} (ha : PeakOk a) (hb : PeakOk b) (hp : PeakOk p) :
    Machine.raisePeak (Machine.raisePeak a b) p = Machine.raisePeak a (Machine.raisePeak b p) := by
  refine ((ha.raisePeak hb).raisePeak hp).eq_of_mag_eq (ha.raisePeak (hb.raisePeak hp)) ?_
  rw [(ha.raisePeak hb).raisePeak_mag hp, ha.raisePeak_mag (hb.raisePeak hp), hb.raisePeak_mag hp, ha.raisePeak_mag hb]
  exact max_assoc _ _ _

/-! ### The greatest of a list -/

/-- A peak raised by each of a list of peaks; `maxPeak` is this from `+0.0`. -/
def raiseBy (ps : List F64) (g : F64) : F64 := ps.foldl (fun g p => raisePeak p g) g

theorem maxPeak_eq (ps : List F64) : maxPeak ps = raiseBy ps Config.zero := rfl

theorem raiseAll_eq (xs : List F64) (g : F64) : raiseAll xs g = raiseBy (xs.map fAbs) g := by
  simp [raiseAll, raiseBy, List.foldl_map]

@[simp] theorem raiseBy_nil (g : F64) : raiseBy [] g = g := rfl

@[simp] theorem raiseBy_cons (p : F64) (ps : List F64) (g : F64) :
    raiseBy (p :: ps) g = raiseBy ps (raisePeak p g) := rfl

theorem PeakOk.raiseBy {g : F64} (hg : PeakOk g) {ps : List F64} (hps : ∀ p ∈ ps, PeakOk p) :
    PeakOk (raiseBy ps g) := by
  induction ps generalizing g with
  | nil => exact hg
  | cons p ps ih =>
    rw [List.forall_mem_cons] at hps
    exact ih (hps.1.raisePeak hg) hps.2

theorem PeakOk.fLe_raiseBy {g : F64} (hg : PeakOk g) {ps : List F64} (hps : ∀ p ∈ ps, PeakOk p) :
    fLe g (Machine.raiseBy ps g) = true := by
  induction ps generalizing g with
  | nil => exact hg.fLe_refl
  | cons p ps ih =>
    rw [List.forall_mem_cons] at hps
    have hstep := hps.1.raisePeak hg
    have h1 := (hg.fLe_iff hstep).1 (hps.1.fLe_raisePeak hg)
    have h2 := (hstep.fLe_iff (hstep.raiseBy hps.2)).1 (ih hstep hps.2)
    exact (hg.fLe_iff (hstep.raiseBy hps.2)).2 (h1.trans h2)

/-- Raising first or last gives the same. -/
theorem raiseBy_raisePeak {a g : F64} (ha : PeakOk a) (hg : PeakOk g) {ps : List F64} (hps : ∀ p ∈ ps, PeakOk p) :
    raiseBy ps (raisePeak a g) = raisePeak a (raiseBy ps g) := by
  induction ps generalizing g with
  | nil => rfl
  | cons p ps ih =>
    rw [List.forall_mem_cons] at hps
    rw [raiseBy_cons, raiseBy_cons, hps.1.raisePeak_left_comm ha hg, ih (hps.1.raisePeak hg) hps.2]

/-- R142: raising the global peak by every value of a frame keeps it the greatest of the channels' peaks, each raised
by its own value. -/
theorem raiseBy_zipWith {as ps : List F64} {g : F64} (has : ∀ a ∈ as, PeakOk a) (hps : ∀ p ∈ ps, PeakOk p)
    (hg : PeakOk g) (hl : as.length = ps.length) :
    raiseBy (List.zipWith raisePeak as ps) g = raiseBy as (raiseBy ps g) := by
  induction as generalizing ps g with
  | nil => rw [List.length_eq_zero_iff.1 hl.symm]; rfl
  | cons a as ih =>
    cases ps with
    | nil => cases hl
    | cons p ps =>
      rw [List.forall_mem_cons] at has hps
      obtain ⟨ha, has⟩ := has
      obtain ⟨hp, hps⟩ := hps
      calc raiseBy (List.zipWith raisePeak (a :: as) (p :: ps)) g
          = raiseBy as (raiseBy ps (raisePeak (raisePeak a p) g)) :=
            ih has hps ((ha.raisePeak hp).raisePeak hg) (Nat.succ.inj hl)
        _ = raiseBy as (raisePeak a (raiseBy ps (raisePeak p g))) := by
            rw [ha.raisePeak_assoc hp hg, raiseBy_raisePeak ha (hp.raisePeak hg) hps]

theorem maxPeak_replicate_zero (n : Nat) : maxPeak (List.replicate n Config.zero) = Config.zero := by
  induction n with
  | zero => rfl
  | succ n ih => exact ih

/-! ### The peaks of a frame -/

@[simp] theorem ingestFrame_spkG (xs : List F64) (r : Session) :
    (ingestFrame xs r).spkG = if r.spEn then raiseAll xs r.spkG else r.spkG := rfl
@[simp] theorem foldTruePeaks_chans (ys : List F64) (r : Session) :
    (foldTruePeaks ys r).chans = List.zipWith truePeakSample ys r.chans := rfl
@[simp] theorem foldTruePeaks_spkG (ys : List F64) (r : Session) : (foldTruePeaks ys r).spkG = r.spkG := rfl
@[simp] theorem foldTruePeaks_tpkG (ys : List F64) (r : Session) :
    (foldTruePeaks ys r).tpkG = raiseAll ys r.tpkG := rfl

/-- A frame that raises a register of each channel by its sample's magnitude. -/
theorem map_zipWith_of_raise {reg : Channel → F64} {f : F64 → Channel → Channel}
    (hf : ∀ x c, reg (f x c) = raisePeak (fAbs x) (reg c)) (xs : List F64) (cs : List Channel) :
    (List.zipWith f xs cs).map reg = List.zipWith raisePeak (xs.map fAbs) (cs.map reg) := by
  simp [List.map_zipWith, List.zipWith_map, hf]

/-- The greatest of a register over the channels, after a frame that raises it in each. -/
theorem maxPeak_zipWith_of_raise {reg : Channel → F64} {f : F64 → Channel → Channel}
    (hf : ∀ x c, reg (f x c) = raisePeak (fAbs x) (reg c)) {xs : List F64} {cs : List Channel}
    (hx : allFinite xs = true) (hc : ∀ c ∈ cs, PeakOk (reg c)) (hl : xs.length = cs.length) :
    maxPeak ((List.zipWith f xs cs).map reg) = raiseAll xs (maxPeak (cs.map reg)) := by
  have hxs : ∀ x ∈ xs, isFinite x = true := by simpa [allFinite] using hx
  rw [map_zipWith_of_raise hf, raiseAll_eq, maxPeak_eq, maxPeak_eq]
  exact raiseBy_zipWith (by simpa using fun x hm => peakOk_fAbs (hxs x hm)) (by simpa using hc) peakOk_zero (by simpa)

/-! ### The invariant of the peaks (O54) -/

/-- A frame that raises a channel's peaks by its sample's magnitude, or leaves them, gives peaks. -/
theorem peaksOk_zipWith {f : F64 → Channel → Channel}
    (hspk : ∀ x c, (f x c).spk = raisePeak (fAbs x) c.spk ∨ (f x c).spk = c.spk)
    (htpk : ∀ x c, (f x c).tpk = raisePeak (fAbs x) c.tpk ∨ (f x c).tpk = c.tpk)
    {xs : List F64} {cs : List Channel} (hx : allFinite xs = true)
    (hc : ∀ c ∈ cs, PeakOk c.spk ∧ PeakOk c.tpk) :
    ∀ c ∈ List.zipWith f xs cs, PeakOk c.spk ∧ PeakOk c.tpk := by
  have hxs : ∀ x ∈ xs, isFinite x = true := by simpa [allFinite] using hx
  intro c' hc'
  rw [← List.map_uncurry_zip_eq_zipWith, List.mem_map] at hc'
  obtain ⟨⟨x, c⟩, hmem, rfl⟩ := hc'
  obtain ⟨hmx, hmc⟩ := List.of_mem_zip hmem
  have ha := peakOk_fAbs (hxs x hmx)
  obtain ⟨hs, ht⟩ := hc c hmc
  constructor
  · rcases hspk x c with h | h <;> simp only [Function.uncurry_apply_pair, h]
    exacts [ha.raisePeak hs, hs]
  · rcases htpk x c with h | h <;> simp only [Function.uncurry_apply_pair, h]
    exacts [ha.raisePeak ht, ht]

theorem PeakInv.ingestFrame {r : Session} (h : PeakInv r) {xs : List F64} (hl : xs.length = r.nch.toNat)
    (hx : allFinite xs = true) : PeakInv (ingestFrame xs r) where
  chan_count := by simp [Machine.ingestFrame, hl, h.chan_count]
  peaks_ok := peaksOk_zipWith (fun x c => by cases hsp : r.spEn <;> simp) (fun x c => by simp) hx h.peaks_ok
  sample_global := by
    cases hsp : r.spEn with
    | true =>
      have hmax := maxPeak_zipWith_of_raise (reg := Channel.spk) (f := ingestSample true r.pre r.rlb)
        (fun x c => by simp) hx (fun c hc => (h.peaks_ok c hc).1) (hl.trans h.chan_count.symm)
      rw [ingestFrame_chans, ingestFrame_spkG, hsp, hmax, if_pos rfl, h.sample_global]
    | false =>
      have hspk := map_zipWith_of_frame Channel.spk (f := ingestSample false r.pre r.rlb) (fun x c => by simp)
        (hl.trans h.chan_count.symm).ge
      rw [ingestFrame_chans, ingestFrame_spkG, hsp, hspk, if_neg Bool.false_ne_true, h.sample_global]
  true_global := by
    rw [ingestFrame_chans, ingestFrame_tpkG, h.true_global,
      map_zipWith_of_frame Channel.tpk (ingestSample_tpk _ _ _) (hl.trans h.chan_count.symm).ge]
  sample_off hoff := by
    have hsp : r.spEn = false := hoff.resolve_right nofun
    rw [ingestFrame_spkG, hsp, if_neg Bool.false_ne_true, h.sample_off (.inl hsp)]
  true_off hos := h.true_off hos
  true_disabled htp := h.true_disabled htp

theorem PeakInv.foldTruePeaks {r : Session} (h : PeakInv r) {ys : List F64} (hl : ys.length = r.nch.toNat)
    (hy : allFinite ys = true) (htp : r.tpEn = true) : PeakInv (foldTruePeaks ys r) where
  chan_count := by simp [Machine.foldTruePeaks, hl, h.chan_count]
  peaks_ok := peaksOk_zipWith (f := truePeakSample) (fun _ _ => .inr rfl) (fun _ _ => .inl rfl) hy h.peaks_ok
  sample_global := by
    rw [foldTruePeaks_chans, foldTruePeaks_spkG, h.sample_global,
      map_zipWith_of_frame Channel.spk truePeakSample_spk (hl.trans h.chan_count.symm).ge]
  true_global := by
    rw [foldTruePeaks_chans, foldTruePeaks_tpkG, h.true_global, maxPeak_zipWith_of_raise truePeakSample_tpk hy
      (fun c hc => (h.peaks_ok c hc).2) (hl.trans h.chan_count.symm)]
  sample_off hoff := h.sample_off hoff
  true_off := nofun
  true_disabled hoff := absurd htp (by simp [show r.tpEn = false from hoff])

/-- A block cycle moves no peak: of a channel it clears `ACC` alone. -/
theorem PeakInv.blockCycle {r : Session} (h : PeakInv r) (n : Nat) : PeakInv (blockCycle n r) where
  chan_count := by simp [h.chan_count]
  peaks_ok := by simpa using h.peaks_ok
  sample_global := by simp [h.sample_global, Function.comp_def]
  true_global := by simp [h.true_global, Function.comp_def]
  sample_off hoff := h.sample_off hoff
  true_off hos := h.true_off hos
  true_disabled htp := h.true_disabled htp

theorem PeakInv.publish {r : Session} (h : PeakInv r) : PeakInv (publish r) :=
  ⟨h.chan_count, h.peaks_ok, h.sample_global, h.true_global, h.sample_off, h.true_off, h.true_disabled⟩

theorem PeakInv.markFailed {r : Session} (h : PeakInv r) (htp : r.tpEn = true) : PeakInv (markFailed r) :=
  ⟨h.chan_count, h.peaks_ok, h.sample_global, h.true_global, h.sample_off, h.true_off,
    fun hoff => absurd htp (by simp [show r.tpEn = false from hoff])⟩

theorem peakInv_newSession {w0 w1 w2 : W64} (st : Stage × Stage) (hok : initPayloadOk w0 w1 w2 = true) :
    PeakInv (newSession w0 w1 w2 st) where
  chan_count := by
    obtain ⟨_, _, ⟨_, hmax⟩, _⟩ := (initPayloadOk_iff w0 w1 w2).1 hok
    have hlen : (initNch w0).toNat ≤ 8 := hmax
    simpa [newSession, classBytes_length] using hlen
  peaks_ok c hc := by
    obtain ⟨k, _, rfl⟩ := List.mem_map.1 hc
    exact ⟨peakOk_zero, peakOk_zero⟩
  sample_global := by simp [newSession, newChannel, Function.comp_def, maxPeak_replicate_zero]
  true_global := by simp [newSession, newChannel, Function.comp_def, maxPeak_replicate_zero]
  sample_off _ := rfl
  true_off _ := rfl
  true_disabled _ := ⟨rfl, rfl⟩

theorem tpEn_of_tpActive {r : Session} (h : tpActive r = true) : r.tpEn = true := by
  simp only [tpActive, Bool.and_eq_true] at h
  exact h.1

theorem peakInv_stable : SessionStable (fun _ r => PeakInv r) where
  init _ _ _ st hok _ := peakInv_newSession st hok
  frame _ _ _ h _ hl hx := ⟨fun _ => (h.ingestFrame hl hx).blockCycle _, fun _ => h.ingestFrame hl hx⟩
  osframe _ _ _ h _ hl hy ht := h.foldTruePeaks hl hy (tpEn_of_tpActive ht)
  osfail _ _ h _ htp := h.markFailed htp
  close _ _ h _ := ⟨fun _ => h.blockCycle _, fun _ => h.publish⟩

/-- Settles O54: a frame raises the global peak with the same magnitudes as its channels' peaks, and nothing else
moves one. -/
theorem stepKeepsPeaks : Obligations.StepKeepsPeaks := fun _ _ hs h => step_preserves peakInv_stable hs h

end Sys2Proof.Machine
end

section
/-! SUPPORT. What one command can do to a session that stands, said once, and that no peak falls by it (10_state.md R30). -/

namespace Sys2Proof.Machine

/-! ### The changes one command can make to a session -/

/-- `r'` is the session a command leaves where it found `r`: unchanged, with a frame ingested and perhaps its block
closed, with true peaks folded, marked failed, or flushed or published by a CLOSE. -/
inductive SessionMove (r : Session) : Session → Prop
  | stay : SessionMove r r
  | frame {xs : List F64} (hl : xs.length = r.nch.toNat) (hx : allFinite xs = true) : SessionMove r (ingestFrame xs r)
  | block {xs : List F64} (hl : xs.length = r.nch.toNat) (hx : allFinite xs = true) (n : Nat) :
      SessionMove r (blockCycle n (ingestFrame xs r))
  | truePeaks {ys : List F64} (hl : ys.length = r.nch.toNat) (hy : allFinite ys = true) :
      SessionMove r (foldTruePeaks ys r)
  | fail : SessionMove r (markFailed r)
  | flush (n : Nat) : SessionMove r (blockCycle n r)
  | publish : SessionMove r (publish r)

/-- The state has a session that one command can make of `r`. -/
def MovesFrom (r : Session) (t : State) : Prop := ∃ ph' r', t.facade = .active ph' r' ∧ SessionMove r r'

theorem movesFrom_commitFrame {r : Session} {xs : List F64} (hl : xs.length = r.nch.toNat) (hx : allFinite xs = true)
    (u : State) : MovesFrom r (commitFrame (ingestFrame xs r) u) := by
  rcases commitFrame_cases (ingestFrame xs r) u with ⟨_, h⟩ | ⟨_, h⟩ <;> rw [h]
  · exact ⟨_, _, rfl, .block hl hx _⟩
  · exact ⟨_, _, rfl, .frame hl hx⟩

section
variable {s : State} {ph : Phase} {r : Session} (hs : s.facade = .active ph r)
include hs

theorem movesFrom_stay {t : State} (h : t.facade = s.facade) : MovesFrom r t := ⟨ph, r, h.trans hs, .stay⟩

theorem movesFrom_whenLive {k : Phase → Session → State} (hk : MovesFrom r (k ph r)) : MovesFrom r (whenLive s k) := by
  by_cases hp : ph = .closed
  · subst hp
    rw [whenLive_closed k hs]
    exact movesFrom_stay hs rfl
  · rwa [whenLive_live k hs hp]

theorem movesFrom_checkFrame {xs : List F64} {k : State}
    (hk : xs.length = r.nch.toNat → allFinite xs = true → MovesFrom r k) : MovesFrom r (checkFrame xs r s k) := by
  rcases checkFrame_cases xs r s k with ⟨_, h⟩ | ⟨_, _, h⟩ | ⟨hl, hx, h⟩ <;> rw [h]
  · exact movesFrom_stay hs rfl
  · exact movesFrom_stay hs rfl
  · exact hk hl hx

/-- INIT is refused in a session. -/
theorem whenNoSession_facade_of_active (k : State) : (whenNoSession s k).facade = s.facade := by
  rcases whenNoSession_cases s k with ⟨h, _⟩ | ⟨_, _, h⟩ | ⟨_, _, _, _, h⟩
  · rw [hs] at h; cases h
  · rw [h, raise_facade]
  · rw [h, raise_facade]

/-- Every command but RESET leaves a session that it can make of the one it found. -/
theorem exec_movesFrom {i : Instr} (hi : i ≠ .reset) : ∃ t, exec i s = .next t ∧ MovesFrom r t := by
  cases i with
  | init w0 w1 w2 => exact ⟨_, rfl, movesFrom_stay hs (whenNoSession_facade_of_active hs _)⟩
  | frame xs =>
    exact ⟨_, rfl, movesFrom_whenLive hs (movesFrom_checkFrame hs fun hl hx => movesFrom_commitFrame hl hx _)⟩
  | osframe ys =>
    refine ⟨_, rfl, movesFrom_whenLive hs (movesFrom_checkFrame hs fun hl hy => ?_)⟩
    split
    · exact ⟨_, _, rfl, .truePeaks hl hy⟩
    · exact movesFrom_stay hs rfl
  | osfail =>
    refine ⟨_, rfl, movesFrom_whenLive hs ?_⟩
    split
    · exact ⟨_, _, rfl, .fail⟩
    · exact movesFrom_stay hs rfl
  | close =>
    refine ⟨_, rfl, movesFrom_whenLive hs ?_⟩
    split
    · exact ⟨_, _, rfl, .flush _⟩
    · exact ⟨_, _, rfl, .publish⟩
  | reset => exact absurd rfl hi
  | rd sel db =>
    refine ⟨_, rfl, movesFrom_stay hs ?_⟩
    split <;> rfl

end

/-- A command that leaves a session where it found `r` has made it of `r`. -/
theorem sessionMove_of_exec {i : Instr} {s t : State} {ph ph' : Phase} {r r' : Session}
    (hs : s.facade = .active ph r) (h : exec i s = .next t) (ht : t.facade = .active ph' r') : SessionMove r r' := by
  by_cases hi : i = .reset
  · subst hi
    cases h
    cases ht
  · obtain ⟨t', h', ph'', r'', ht', hmove⟩ := exec_movesFrom hs hi
    cases h.symm.trans h'
    cases ht.symm.trans ht'
    exact hmove

/-! ### Peaks never fall (O46) -/

/-- No peak of `r`, global or of a channel, is above that of `r'`, and `r'` has every channel of `r`. -/
structure PeaksLe (r r' : Session) : Prop where
  sample_global : fLe r.spkG r'.spkG = true
  true_global : fLe r.tpkG r'.tpkG = true
  channels : ∀ (k : Nat) (c : Channel), r.chans[k]? = some c →
    ∃ c', r'.chans[k]? = some c' ∧ fLe c.spk c'.spk = true ∧ fLe c.tpk c'.tpk = true

theorem PeakInv.spkG_ok {r : Session} (h : PeakInv r) : PeakOk r.spkG := by
  rw [h.sample_global, maxPeak_eq]
  exact peakOk_zero.raiseBy (by simpa using fun c hc => (h.peaks_ok c hc).1)

theorem PeakInv.tpkG_ok {r : Session} (h : PeakInv r) : PeakOk r.tpkG := by
  rw [h.true_global, maxPeak_eq]
  exact peakOk_zero.raiseBy (by simpa using fun c hc => (h.peaks_ok c hc).2)

theorem PeakInv.peaksLe_refl {r : Session} (h : PeakInv r) : PeaksLe r r where
  sample_global := h.spkG_ok.fLe_refl
  true_global := h.tpkG_ok.fLe_refl
  channels k c hc := by
    obtain ⟨hspk, htpk⟩ := h.peaks_ok c (List.mem_of_getElem? hc)
    exact ⟨c, hc, hspk.fLe_refl, htpk.fLe_refl⟩

theorem PeaksLe.blockCycle {r r' : Session} (h : PeaksLe r r') (n : Nat) : PeaksLe r (blockCycle n r') where
  sample_global := h.sample_global
  true_global := h.true_global
  channels k c hc := by
    obtain ⟨c', hc', hspk, htpk⟩ := h.channels k c hc
    exact ⟨clearAcc c', by simp [hc'], hspk, htpk⟩

theorem PeaksLe.publish {r r' : Session} (h : PeaksLe r r') : PeaksLe r (publish r') :=
  ⟨h.sample_global, h.true_global, h.channels⟩

theorem PeaksLe.markFailed {r r' : Session} (h : PeaksLe r r') : PeaksLe r (markFailed r') :=
  ⟨h.sample_global, h.true_global, h.channels⟩

theorem PeakOk.fLe_raiseAll {g : F64} (hg : PeakOk g) {xs : List F64} (hx : allFinite xs = true) :
    fLe g (raiseAll xs g) = true := by
  have hxs : ∀ x ∈ xs, isFinite x = true := by simpa [allFinite] using hx
  rw [raiseAll_eq]
  exact hg.fLe_raiseBy (by simpa using fun x hm => peakOk_fAbs (hxs x hm))

/-- What a frame as wide as the channels does to channel `k`. -/
theorem getElem?_zipWith_of_frame {f : F64 → Channel → Channel} {xs : List F64} {cs : List Channel}
    (hl : xs.length = cs.length) (hx : allFinite xs = true) {k : Nat} {c : Channel} (hc : cs[k]? = some c) :
    ∃ x, isFinite x = true ∧ (List.zipWith f xs cs)[k]? = some (f x c) := by
  obtain ⟨hk, rfl⟩ := List.getElem?_eq_some_iff.1 hc
  have hxs : ∀ x ∈ xs, isFinite x = true := by simpa [allFinite] using hx
  exact ⟨xs[k], hxs _ (List.getElem_mem _), by simp [hk, hl]⟩

theorem PeakInv.peaksLe_ingestFrame {r : Session} (h : PeakInv r) {xs : List F64} (hl : xs.length = r.nch.toNat)
    (hx : allFinite xs = true) : PeaksLe r (Machine.ingestFrame xs r) where
  sample_global := by
    rw [ingestFrame_spkG]
    split
    · exact h.spkG_ok.fLe_raiseAll hx
    · exact h.spkG_ok.fLe_refl
  true_global := h.tpkG_ok.fLe_refl
  channels k c hc := by
    obtain ⟨x, hfin, hget⟩ := getElem?_zipWith_of_frame (f := ingestSample r.spEn r.pre r.rlb)
      (hl.trans h.chan_count.symm) hx hc
    obtain ⟨hspk, htpk⟩ := h.peaks_ok c (List.mem_of_getElem? hc)
    refine ⟨_, hget, ?_, by rw [ingestSample_tpk]; exact htpk.fLe_refl⟩
    rw [ingestSample_spk]
    split
    · exact (peakOk_fAbs hfin).fLe_raisePeak hspk
    · exact hspk.fLe_refl

theorem PeakInv.peaksLe_foldTruePeaks {r : Session} (h : PeakInv r) {ys : List F64} (hl : ys.length = r.nch.toNat)
    (hy : allFinite ys = true) : PeaksLe r (Machine.foldTruePeaks ys r) where
  sample_global := h.spkG_ok.fLe_refl
  true_global := h.tpkG_ok.fLe_raiseAll hy
  channels k c hc := by
    obtain ⟨y, hfin, hget⟩ := getElem?_zipWith_of_frame (f := truePeakSample) (hl.trans h.chan_count.symm) hy hc
    obtain ⟨hspk, htpk⟩ := h.peaks_ok c (List.mem_of_getElem? hc)
    exact ⟨_, hget, hspk.fLe_refl, (peakOk_fAbs hfin).fLe_raisePeak htpk⟩

theorem PeakInv.peaksLe_of_move {r r' : Session} (h : PeakInv r) (hm : SessionMove r r') : PeaksLe r r' := by
  cases hm with
  | stay => exact h.peaksLe_refl
  | frame hl hx => exact h.peaksLe_ingestFrame hl hx
  | block hl hx n => exact (h.peaksLe_ingestFrame hl hx).blockCycle n
  | truePeaks hl hy => exact h.peaksLe_foldTruePeaks hl hy
  | fail => exact h.peaksLe_refl.markFailed
  | flush n => exact h.peaksLe_refl.blockCycle n
  | publish => exact h.peaksLe_refl.publish

/-- Settles O46: by the changes one command can make to a session. -/
theorem peaksNeverDecrease : Obligations.PeaksNeverDecrease := by
  intro i s t ph ph' r r' hs hinv h ht
  obtain ⟨hspk, htpk, hchans⟩ := hinv.peaksLe_of_move (sessionMove_of_exec hs h ht)
  exact ⟨hspk, htpk, hchans⟩

end Sys2Proof.Machine
end

section
/-! SUPPORT. The base case of the five invariants: reset, and the session of INIT (10_state.md R38, R206). -/

namespace Sys2Proof.Machine

/-- Nothing is published before the first block, and the new integrators give nothing (R38, R113, R131). -/
theorem publishedInv_newSession (w0 w1 w2 : W64) (st : Stage × Stage) : PublishedInv (newSession w0 w1 w2 st) :=
  ⟨rfl, rfl, rfl, rfl, rfl, rfl⟩

/-- INIT without a session is refused, or creates the session of a valid payload whose rate has coefficients (R156). -/
theorem exec_init_cases {s t : State} {w0 w1 w2 : W64} (hs : s.facade = .uninitialized)
    (h : exec (.init w0 w1 w2) s = .next t) :
    t.facade = .uninitialized ∨ ∃ st, initPayloadOk w0 w1 w2 = true ∧ Config.coef (initRate w0) = some st ∧
      t.facade = .active .ready (newSession w0 w1 w2 st) := by
  have hgo : ∀ k, whenNoSession s k = k := fun k => by simp [whenNoSession, hs]
  cases h
  rw [hgo]
  split
  case isTrue hok =>
    rcases commitInit_cases w0 w1 w2 (Config.coef (initRate w0)) s with ⟨_, hc⟩ | ⟨st, hst, hc⟩
    · rw [hc]; exact .inl hs
    · rw [hc]; exact .inr ⟨st, hok, hst, rfl⟩
  case isFalse => exact .inl hs

/-- Settles O56. -/
theorem invariantsHoldAtStart : Obligations.InvariantsHoldAtStart := by
  refine ⟨trivial, fun w0 w1 w2 s t hs h => ?_⟩
  rcases exec_init_cases hs h with ht | ⟨st, hok, hst, ht⟩ <;> simp only [OnSession, ht]
  exact ⟨configInv_newSession hok hst, counterInv_newSession st hok, windowsInv_newSession w0 w1 w2 st,
    peakInv_newSession st hok, publishedInv_newSession w0 w1 w2 st⟩

end Sys2Proof.Machine
end

section
/-! SUPPORT. Commands never read the streams (60_exceptions.md R196, 70_reset_and_hazards.md R223): a machine with a longer
past runs a command as the same machine without it, and only its streams begin with that past. -/

namespace Sys2Proof.Machine

/-- The machine `u` with the streams of `p` behind it: `p`'s waiting words, and `p`'s responses and events sent before
its own. -/
def State.withPast (p u : State) : State :=
  { facade := u.facade, commands := p.commands, responses := p.responses ++ u.responses, events := p.events ++ u.events }

@[simp] theorem withPast_facade (p u : State) : (p.withPast u).facade = u.facade := rfl
@[simp] theorem withPast_responses (p u : State) : (p.withPast u).responses = p.responses ++ u.responses := rfl
@[simp] theorem withPast_events (p u : State) : (p.withPast u).events = p.events ++ u.events := rfl

/-! ### Every operation on the state commutes with a past -/

@[simp] theorem setFacade_withPast (p u : State) (f : Facade) :
    (p.withPast u).setFacade f = p.withPast (u.setFacade f) := rfl

@[simp] theorem pushResponse_withPast (p u : State) (r : Response) :
    (p.withPast u).pushResponse r = p.withPast (u.pushResponse r) := by
  simp [State.withPast, State.pushResponse]

@[simp] theorem pushEvent_withPast (p u : State) (e : Event) :
    (p.withPast u).pushEvent e = p.withPast (u.pushEvent e) := by
  simp [State.withPast, State.pushEvent]

@[simp] theorem raise_withPast (p u : State) (e : Code) : raise e (p.withPast u) = p.withPast (raise e u) :=
  pushResponse_withPast p u _

@[simp] theorem respond_withPast (p u : State) (v : Bool) (d : W64) :
    respond v d (p.withPast u) = p.withPast (respond v d u) :=
  pushResponse_withPast p u _

@[simp] theorem respondOk_withPast (p u : State) : respondOk (p.withPast u) = p.withPast (respondOk u) :=
  respond_withPast p u _ _

@[simp] theorem emit_withPast (p u : State) (e : Event) : emit e (p.withPast u) = p.withPast (emit e u) :=
  pushEvent_withPast p u e

@[simp] theorem refreshTo_withPast (p u : State) (ph : Phase) (n : Nat) (r : Session) :
    refreshTo ph n r (p.withPast u) = p.withPast (refreshTo ph n r u) := by
  simp [refreshTo]

@[simp] theorem requestResample_withPast (p u : State) (xs : List F64) (r : Session) :
    requestResample xs r (p.withPast u) = p.withPast (requestResample xs r u) := by
  unfold requestResample; split <;> simp

@[simp] theorem commitFrame_withPast (p u : State) (r : Session) :
    commitFrame r (p.withPast u) = p.withPast (commitFrame r u) := by
  unfold commitFrame; split <;> simp

@[simp] theorem commitInit_withPast (p u : State) (w0 w1 w2 : W64) (c : Option (Stage × Stage)) :
    commitInit w0 w1 w2 c (p.withPast u) = p.withPast (commitInit w0 w1 w2 c u) := by
  cases c <;> simp [commitInit]

@[simp] theorem checkFrame_withPast (p u k : State) (xs : List F64) (r : Session) :
    checkFrame xs r (p.withPast u) (p.withPast k) = p.withPast (checkFrame xs r u k) := by
  unfold checkFrame; split_ifs <;> simp

theorem whenLive_withPast {p u : State} {k k' : Phase → Session → State} (h : ∀ ph r, k ph r = p.withPast (k' ph r)) :
    whenLive (p.withPast u) k = p.withPast (whenLive u k') := by
  unfold whenLive
  rw [withPast_facade]
  split <;> simp [h]

@[simp] theorem whenNoSession_withPast (p u k : State) :
    whenNoSession (p.withPast u) (p.withPast k) = p.withPast (whenNoSession u k) := by
  unfold whenNoSession
  rw [withPast_facade]
  split <;> simp

/-! ### Commands and runs -/

theorem exec_total (i : Instr) (s : State) : ∃ t, exec i s = .next t := by
  cases i <;> exact ⟨_, rfl⟩

/-- A command runs behind any past as it does without one. -/
theorem exec_withPast {i : Instr} {u v : State} (p : State) (h : exec i u = .next v) :
    exec i (p.withPast u) = .next (p.withPast v) := by
  cases i with
  | init w0 w1 w2 =>
    cases h
    simp only [exec, execInit, commitInit_withPast, raise_withPast, ← apply_ite, whenNoSession_withPast]
  | frame xs =>
    cases h
    exact congrArg _ (whenLive_withPast fun _ r => by simp)
  | osframe ys =>
    cases h
    exact congrArg _ (whenLive_withPast fun _ r => by split <;> simp)
  | osfail =>
    cases h
    exact congrArg _ (whenLive_withPast fun _ r => by split <;> simp)
  | close =>
    cases h
    exact congrArg _ (whenLive_withPast fun _ r => by split <;> simp)
  | reset =>
    cases h
    simp [exec, execReset]
  | rd sel db =>
    cases h
    simp only [exec, execRd, withPast_facade, raise_withPast, respond_withPast, ← apply_ite]

theorem execs_total (is : List Instr) (s : State) : ∃ t, execs is s = some t := by
  induction is generalizing s with
  | nil => exact ⟨s, rfl⟩
  | cons i is ih =>
    obtain ⟨t, ht⟩ := exec_total i s
    simpa [execs, ht] using ih t

theorem execs_withPast {is : List Instr} {u v : State} (p : State) (h : execs is u = some v) :
    execs is (p.withPast u) = some (p.withPast v) := by
  induction is generalizing u with
  | nil => cases h; rfl
  | cons i is ih =>
    obtain ⟨t, ht⟩ := exec_total i u
    simp only [execs, ht] at h
    simp only [execs, exec_withPast p ht]
    exact ih h

/-! ### Replay (O58) -/

/-- RESET forgets everything but the past in the streams (R157). -/
theorem execs_reset_cons (is : List Instr) (s : State) :
    execs (.reset :: is) s = execs is (s.withPast (respondOk State.reset)) := by
  simp [execs, exec, execReset, State.withPast, State.reset, respondOk, respond, State.pushResponse, State.setFacade]

/-- Settles O58: after RESET both machines are one machine behind different pasts. -/
theorem replayIsDeterministic : Obligations.ReplayIsDeterministic := by
  intro is s1 s2
  obtain ⟨v, hv⟩ := execs_total is (respondOk State.reset)
  refine ⟨s1.withPast v, s2.withPast v, v.responses, v.events, ?_, ?_, rfl, rfl, rfl, rfl, rfl⟩ <;>
    rw [execs_reset_cons]
  · exact execs_withPast s1 hv
  · exact execs_withPast s2 hv

end Sys2Proof.Machine
end

section
/-! SUPPORT. The words RD answers and is asked with (10_state.md R33 to R35), field by field. -/

namespace Sys2Proof.Machine

/-! ### Fields of a word -/

/-- Two fields side by side, the left one in the high bits. -/
theorem toNat_append_eq {m n : Nat} (x : BitVec m) (y : BitVec n) :
    (x ++ y).toNat = x.toNat * 2 ^ n + y.toNat := by
  rw [BitVec.toNat_append, ← Nat.shiftLeft_add_eq_or_of_lt y.isLt, Nat.shiftLeft_eq]

/-! ### STATUS (O30) -/

/-- Bits 2:0 are `ST`. -/
theorem packStatus_st (osSeen seen filled1 filled0 tpFail dualMono tpEn spEn : Bool) (st : ST) :
    (packStatus osSeen seen filled1 filled0 tpFail dualMono tpEn spEn st).extractLsb' 0 3 = stCode st :=
  BitVec.extractLsb'_append_eq_right

/-- Bit 3 is clear and bits 4 to 11 are the flags. -/
theorem packStatus_flags (osSeen seen filled1 filled0 tpFail dualMono tpEn spEn : Bool) (st : ST) :
    let w := packStatus osSeen seen filled1 filled0 tpFail dualMono tpEn spEn st
    w.getLsbD 3 = false ∧ w.getLsbD 4 = spEn ∧ w.getLsbD 5 = tpEn ∧ w.getLsbD 6 = dualMono ∧ w.getLsbD 7 = tpFail ∧
      w.getLsbD 8 = filled0 ∧ w.getLsbD 9 = filled1 ∧ w.getLsbD 10 = seen ∧ w.getLsbD 11 = osSeen := by
  simp only [packStatus, BitVec.getLsbD_append]
  simp

/-- Bits 63:12 are clear. -/
theorem packStatus_high (osSeen seen filled1 filled0 tpFail dualMono tpEn spEn : Bool) (st : ST) :
    (packStatus osSeen seen filled1 filled0 tpFail dualMono tpEn spEn st).extractLsb' 12 52 = 0 := by
  refine BitVec.eq_of_getLsbD_eq fun i hi => ?_
  rw [BitVec.getLsbD_extractLsb', packStatus]
  simp only [BitVec.getLsbD_append]
  repeat rw [if_neg (by omega)]
  simp

/-- Settles O30: each field of the packing read back. -/
theorem statusWordFields : Obligations.StatusWordFields := by
  refine ⟨by decide, fun ph r => ?_⟩
  obtain ⟨h3, hsp, htp, hdm, hfail, hf0, hf1, hseen, hos⟩ := packStatus_flags r.osSeen r.seen r.int1.filled
    r.int0.filled r.tpFail r.dualMono r.tpEn r.spEn (Facade.active ph r).st
  refine ⟨?_, h3, hsp, htp, hdm, hfail, hf0, hf1, hseen, hos, packStatus_high _ _ _ _ _ _ _ _ _⟩
  rw [statusWord, packStatus_st]
  cases ph <;> rfl

/-! ### CFG_CLASS (O31) -/

theorem packClasses_cons (k : BitVec 8) (ks : List (BitVec 8)) :
    packClasses (k :: ks) = (packClasses ks <<< 8) ||| k.setWidth 64 := rfl

/-- The bits of a word from bit `n` up are its byte there below its bits from `n + 8` up. -/
theorem shiftRight_eq_byte_or (w : W64) (n : Nat) :
    w >>> n = ((w >>> (n + 8)) <<< 8) ||| (w.extractLsb' n 8).setWidth 64 := by
  refine BitVec.eq_of_getLsbD_eq fun i hi => ?_
  simp only [BitVec.getLsbD_ushiftRight, BitVec.getLsbD_or, BitVec.getLsbD_shiftLeft, BitVec.getLsbD_setWidth,
    BitVec.getLsbD_extractLsb', hi, decide_true, Bool.true_and]
  by_cases h8 : i < 8
  · simp [h8]
  · simp [h8, show n + 8 + (i - 8) = n + i by omega]

/-- The bytes of a word from bit `n` up, packed, are the word shifted down to bit `n`. -/
theorem packClasses_byte_cons {w : W64} {ks : List (BitVec 8)} (n : Nat) (h : packClasses ks = w >>> (n + 8)) :
    packClasses (w.extractLsb' n 8 :: ks) = w >>> n := by
  rw [packClasses_cons, h, ← shiftRight_eq_byte_or]

/-- Settles O31: the bytes are put back from the highest down. -/
theorem classWordReadsBack : Obligations.ClassWordReadsBack := by
  intro w2
  have hnil : packClasses [] = w2 >>> (56 + 8) := (BitVec.ushiftRight_eq_zero (by decide)).symm
  have hall := packClasses_byte_cons 0 (packClasses_byte_cons 8 (packClasses_byte_cons 16 (packClasses_byte_cons 24
    (packClasses_byte_cons 32 (packClasses_byte_cons 40 (packClasses_byte_cons 48 (packClasses_byte_cons 56 hnil)))))))
  rw [hall, BitVec.ushiftRight_zero]

/-! ### RD (O29) -/

theorem selector_code_sp (c : Fin 8) : (Selector.sp c).code.toNat = 0x40 + c.val := by
  simp only [Selector.code, BitVec.toNat_ofNat]; omega

theorem selector_code_tp (c : Fin 8) : (Selector.tp c).code.toNat = 0x60 + c.val := by
  simp only [Selector.code, BitVec.toNat_ofNat]; omega

/-- RD's word: opcode 7, the selector's number in bits 55:48, `DB` in bit 32 (R66, R69). -/
theorem encode_rd (sel : Selector) (db : Bool) :
    encode (.rd sel db) = [BitVec.ofNat 64 (7 * 2 ^ 56 + sel.code.toNat * 2 ^ 48 + db.toNat * 2 ^ 32)] := by
  have hcode := sel.code.isLt
  refine congrArg (· :: []) (BitVec.eq_of_toNat_eq ?_)
  simp only [headerWord, toNat_append_eq, BitVec.toNat_ofBool, BitVec.toNat_ofNat]
  cases db <;> simp <;> omega

/-- R35: the numbers of the peak selectors. -/
theorem isPeak_iff_code (sel : Selector) : sel.isPeak = true ↔
    sel.code.toNat = 0x20 ∨ sel.code.toNat = 0x21 ∨ (0x40 ≤ sel.code.toNat ∧ sel.code.toNat ≤ 0x47) ∨
      (0x60 ≤ sel.code.toNat ∧ sel.code.toNat ≤ 0x67) := by
  cases sel with
  | sp c => rw [selector_code_sp]; simp only [Selector.isPeak, true_iff]; omega
  | tp c => rw [selector_code_tp]; simp only [Selector.isPeak, true_iff]; omega
  | _ => decide

theorem cfg0Word_eq (r : Session) : cfg0Word r = BitVec.ofNat 64 (r.rate.toNat + 2 ^ 32 * r.nch.toNat +
    2 ^ 40 * r.spEn.toNat + 2 ^ 41 * r.tpEn.toNat + 2 ^ 42 * r.dualMono.toNat) := by
  have hrate := r.rate.isLt
  have hnch := r.nch.isLt
  have hsp := Bool.toNat_le r.spEn
  have htp := Bool.toNat_le r.tpEn
  have hdm := Bool.toNat_le r.dualMono
  refine BitVec.eq_of_toNat_eq ?_
  simp only [cfg0Word, toNat_append_eq, BitVec.toNat_ofBool, BitVec.toNat_ofNat]
  omega

/-- RD of a selector whose number is `n` (R35, R66). -/
theorem rd_of_code {sel : Selector} {n : Nat} (h : sel.code.toNat = n) (db : Bool) :
    encode (.rd sel db) = [BitVec.ofNat 64 (7 * 2 ^ 56 + n * 2 ^ 48 + db.toNat * 2 ^ 32)] ∧ sel.code.toNat = n ∧
      (sel.isPeak = true ↔ n = 0x20 ∨ n = 0x21 ∨ (0x40 ≤ n ∧ n ≤ 0x47) ∨ (0x60 ≤ n ∧ n ≤ 0x67)) := by
  subst h
  exact ⟨encode_rd sel db, rfl, isPeak_iff_code sel⟩

/-- RD in a session, `DB` only with a peak selector: the answer of the selector, and nothing else changes (R163). -/
theorem exec_rd_active {s : State} {ph : Phase} {r : Session} {sel : Selector} {db : Bool} {answer : Bool × W64}
    (hs : s.facade = .active ph r) (hdb : db = true → sel.isPeak = true) (ha : readSession sel db ph r = answer) :
    exec (.rd sel db) s = .next { s with responses := s.responses ++ [⟨.ok, answer.1, answer.2⟩] } := by
  have hlegal : (db && !sel.isPeak) = false := by cases db <;> simp_all
  have hread : readSelector sel db s.facade = answer := by rw [hs]; exact ha
  rw [exec, execRd, if_neg (Bool.eq_false_iff.1 hlegal), hread]
  rfl

theorem readMetric_eq (v : Option F64) : readMetric v =
    match v with
    | none => (false, 0)
    | some a => (true, a.bits) := by
  cases v <;> rfl

theorem readPeak_eq (db : Bool) (v : Option F64) : readPeak db v =
    match v with
    | none => (false, 0)
    | some p => (true, (if db = true then peakDb p else p).bits) := by
  cases v <;> rfl

/-- A per-channel peak: unavailable for a channel `c >= NCH` (R35). -/
theorem readPeak_channelPeak (db : Bool) (r : Session) (peaks : List (Option F64)) (c : Fin 8) :
    readPeak db (channelPeak r peaks c) =
      if r.nch.toNat ≤ c.val then (false, 0) else readPeak db (peaks.getD c.val none) := by
  unfold channelPeak
  by_cases h : c.val < r.nch.toNat
  · rw [if_pos h, if_neg (not_le.2 h)]
  · rw [if_neg h, if_pos (not_lt.1 h)]
    rfl

/-- Settles O29: the word and the numbers by the encoding, the answers selector by selector. -/
theorem rdFollowsItsRule : Obligations.RdFollowsItsRule := by
  constructor
  · intro sel db
    refine rd_of_code ?_ db
    cases sel with
    | sp c => exact selector_code_sp c
    | tp c => exact selector_code_tp c
    | _ => rfl
  · intro s ph r sel db hs hdb
    refine exec_rd_active hs hdb ?_
    cases sel with
    | status => rw [hs]; rfl
    | cfg0 => exact congrArg (Prod.mk true) (cfg0Word_eq r)
    | cfgPanw => rfl
    | cfgClass => rfl
    | m => exact readMetric_eq r.snap.m
    | s => exact readMetric_eq r.snap.s
    | i => exact readMetric_eq r.snap.i
    | lra => exact readMetric_eq r.snap.lra
    | lraLow => exact readMetric_eq r.snap.lraLow
    | lraHigh => exact readMetric_eq r.snap.lraHigh
    | spG => exact readPeak_eq db r.snap.spG
    | tpG => exact readPeak_eq db r.snap.tpG
    | sp c => exact (readPeak_channelPeak db r r.snap.sp c).trans (if_congr Iff.rfl rfl (readPeak_eq db _))
    | tp c => exact (readPeak_channelPeak db r r.snap.tp c).trans (if_congr Iff.rfl rfl (readPeak_eq db _))

end Sys2Proof.Machine
end

section
/-! SUPPORT. What a command does to the three streams (20_memory.md R51, R55, R74): a step takes its words off the
command stream, the command itself puts one response behind the others, and an RD leaves nothing but that response. -/

namespace Sys2Proof.Machine

/-! ### The step and the command stream (O7) -/

/-- Settles O7: of the three things a step can do, the decoder's answer leaves one. -/
theorem stepRunsDecodedCommand : Obligations.StepRunsDecodedCommand := by
  intro s i rest hdec
  rcases step_cases s with ⟨hf, _⟩ | ⟨_, _, hf, _⟩ | ⟨_, _, hf, hstep⟩
  · cases hdec.symm.trans hf
  · cases hdec.symm.trans hf
  · cases hdec.symm.trans hf
    exact hstep

/-! ### One response for each command (O9) -/

@[simp] theorem commitFrame_responses (r : Session) (s : State) : (commitFrame r s).responses = s.responses := by
  rcases commitFrame_cases r s with ⟨_, h⟩ | ⟨_, h⟩ <;> rw [h]
  · exact refreshTo_responses ..
  · exact setFacade_responses ..

@[simp] theorem commitFrame_commands (r : Session) (s : State) : (commitFrame r s).commands = s.commands := by
  rcases commitFrame_cases r s with ⟨_, h⟩ | ⟨_, h⟩ <;> rw [h]
  · exact refreshTo_commands ..
  · exact setFacade_commands ..

/-- `t` has one response more than `s`, which is `r`, and the words that wait in `s` still wait. -/
structure Answers (s : State) (r : Response) (t : State) : Prop where
  responses : t.responses = s.responses ++ [r]
  commands : t.commands = s.commands

/-- `t` answers `s` by a code alone, as every command but RD does (R74). -/
def AnswersCode (s t : State) : Prop := ∃ c, Answers s ⟨c, false, 0⟩ t

section
variable {s : State}

theorem answersCode_raise (e : Code) : AnswersCode s (raise e s) := ⟨e, rfl, rfl⟩

theorem answersCode_respondOk {u : State} (hr : u.responses = s.responses) (hc : u.commands = s.commands) :
    AnswersCode s (respondOk u) :=
  ⟨.ok, by rw [respondOk_responses, hr], by rw [respondOk_commands, hc]⟩

theorem answersCode_whenLive {k : Phase → Session → State} (hk : ∀ ph r, AnswersCode s (k ph r)) :
    AnswersCode s (whenLive s k) := by
  rcases whenLive_cases s k with ⟨_, h⟩ | ⟨_, _, h⟩ | ⟨ph, r, _, _, h⟩ <;> rw [h]
  · exact answersCode_raise _
  · exact answersCode_raise _
  · exact hk ph r

theorem answersCode_whenNoSession {k : State} (hk : AnswersCode s k) : AnswersCode s (whenNoSession s k) := by
  rcases whenNoSession_cases s k with ⟨_, h⟩ | ⟨_, _, h⟩ | ⟨_, _, _, _, h⟩ <;> rw [h]
  · exact hk
  · exact answersCode_raise _
  · exact answersCode_raise _

theorem answersCode_checkFrame {xs : List F64} {r : Session} {k : State} (hk : AnswersCode s k) :
    AnswersCode s (checkFrame xs r s k) := by
  rcases checkFrame_cases xs r s k with ⟨_, h⟩ | ⟨_, _, h⟩ | ⟨_, _, h⟩ <;> rw [h]
  · exact answersCode_raise _
  · exact answersCode_raise _
  · exact hk

theorem answersCode_commitInit (w0 w1 w2 : W64) (c : Option (Stage × Stage)) :
    AnswersCode s (commitInit w0 w1 w2 c s) := by
  rcases commitInit_cases w0 w1 w2 c s with ⟨_, h⟩ | ⟨_, _, h⟩ <;> rw [h]
  · exact answersCode_raise _
  · exact answersCode_respondOk rfl rfl

/-- Every command but RD answers by a code alone. -/
theorem exec_answersCode {i : Instr} (hi : isRead i = false) : ∃ t, exec i s = .next t ∧ AnswersCode s t := by
  cases i with
  | init w0 w1 w2 =>
    refine ⟨_, rfl, answersCode_whenNoSession ?_⟩
    split
    · exact answersCode_commitInit ..
    · exact answersCode_raise _
  | frame xs =>
    exact ⟨_, rfl, answersCode_whenLive fun _ _ =>
      answersCode_checkFrame (answersCode_respondOk (by simp) (by simp))⟩
  | osframe ys =>
    refine ⟨_, rfl, answersCode_whenLive fun _ _ => answersCode_checkFrame (answersCode_respondOk ?_ ?_)⟩ <;>
      split <;> rfl
  | osfail =>
    refine ⟨_, rfl, answersCode_whenLive fun _ _ => answersCode_respondOk ?_ ?_⟩ <;> split <;> rfl
  | close =>
    refine ⟨_, rfl, answersCode_whenLive fun _ _ => answersCode_respondOk ?_ ?_⟩ <;>
      simp only [emit_responses, emit_commands] <;> split <;> rfl
  | reset => exact ⟨_, rfl, answersCode_respondOk rfl rfl⟩
  | rd sel db => cases hi

end

/-- A metric that is unavailable reads as data 0 (R165). -/
theorem readMetric_data_of_invalid {v : Option F64} (h : (readMetric v).1 = false) : (readMetric v).2 = 0 := by
  cases v with
  | none => rfl
  | some a => cases h

theorem readSelector_data_of_invalid {sel : Selector} {db : Bool} {f : Facade}
    (h : (readSelector sel db f).1 = false) : (readSelector sel db f).2 = 0 := by
  cases f with
  | uninitialized =>
    simp only [readSelector] at h ⊢
    split at h
    · cases h
    · rw [if_neg ‹_›]
  | active ph r =>
    cases sel with
    | status | cfg0 | cfgPanw | cfgClass => cases h
    | _ => exact readMetric_data_of_invalid h

/-- RD appends its response and does nothing else (R163): `E_ILLEGAL`, or the answer of the selector, in which data
without valid is 0. -/
theorem exec_rd_pushes (sel : Selector) (db : Bool) (s : State) :
    ∃ r, exec (.rd sel db) s = .next (s.pushResponse r) ∧ (r.code ≠ .ok → r.valid = false) ∧
      (r.valid = false → r.data = 0) := by
  by_cases hdb : (db && !sel.isPeak) = true
  · exact ⟨⟨.eIllegal, false, 0⟩, by rw [exec, execRd, if_pos hdb, raise], fun _ => rfl, fun _ => rfl⟩
  · exact ⟨⟨.ok, _, _⟩, by rw [exec, execRd, if_neg hdb, respond], fun h => absurd rfl h,
      readSelector_data_of_invalid⟩

/-- Settles O9: an RD by the response it appends, any other command by its code alone. -/
theorem everyCommandAnswersOnce : Obligations.EveryCommandAnswersOnce := by
  intro i s
  cases hi : isRead i with
  | false =>
    obtain ⟨t, hexec, c, hans⟩ := exec_answersCode (s := s) hi
    exact ⟨t, _, hexec, hans.responses, hans.commands, fun _ => rfl, fun _ => rfl, fun _ => rfl⟩
  | true =>
    cases i with
    | rd sel db =>
      obtain ⟨r, hexec, hcode, hdata⟩ := exec_rd_pushes sel db s
      exact ⟨_, r, hexec, rfl, rfl, hcode, hdata, fun h => absurd rfl (h sel db)⟩
    | _ => cases hi

/-! ### The facade decides (O57) -/

/-- A machine is one with its facade and empty streams, behind its own past. -/
theorem withPast_reset_setFacade (s : State) : s.withPast (State.reset.setFacade s.facade) = s := by
  simp [State.withPast, State.reset, State.setFacade]

/-- Settles O57: both machines are the machine with empty streams behind different pasts, and what that machine answers
is one response. -/
theorem outputsDependOnFacadeAlone : Obligations.OutputsDependOnFacadeAlone := by
  intro i s1 s2 hfac
  obtain ⟨v, r, hexec, hresp, -⟩ := everyCommandAnswersOnce i (State.reset.setFacade s1.facade)
  have behind (p : State) (hp : p.facade = s1.facade) : exec i p = .next
      { p with facade := v.facade, responses := p.responses ++ [r], events := p.events ++ v.events } := by
    have hrun := exec_withPast p hexec
    rw [← hp, withPast_reset_setFacade] at hrun
    rw [hrun, State.withPast, hresp]
    rfl
  exact ⟨v.facade, r, v.events, behind s1 rfl, behind s2 hfac.symm⟩

/-! ### Runs without their RD commands (O60) -/

/-- An RD leaves the facade and the events as they are. -/
theorem exec_of_isRead {i : Instr} (hi : isRead i = true) (s : State) :
    ∃ t, exec i s = .next t ∧ t.facade = s.facade ∧ t.events = s.events := by
  cases i with
  | rd sel db =>
    obtain ⟨r, hexec, -⟩ := exec_rd_pushes sel db s
    exact ⟨_, hexec, rfl, rfl⟩
  | _ => cases hi

/-- Dropping the RD commands of a run is a simulation: the machines stay equal in facade and events, whatever responses
the one with the reads has more. -/
theorem execs_filter_reads {is : List Instr} {s s' t : State} (hfac : s'.facade = s.facade)
    (hev : s'.events = s.events) (h : execs is s = some t) :
    ∃ t', execs (is.filter (fun i => !isRead i)) s' = some t' ∧ t'.facade = t.facade ∧ t'.events = t.events := by
  induction is generalizing s s' with
  | nil =>
    cases h
    exact ⟨s', rfl, hfac, hev⟩
  | cons i is ih =>
    cases hi : isRead i with
    | true =>
      obtain ⟨u, hexec, hu, hue⟩ := exec_of_isRead hi s
      simp only [execs, hexec] at h
      simpa [hi] using ih (hfac.trans hu.symm) (hev.trans hue.symm) h
    | false =>
      obtain ⟨f, r, es, hexec', hexec⟩ := outputsDependOnFacadeAlone i s' s hfac
      simp only [execs, hexec] at h
      simp only [List.filter_cons, hi, Bool.not_false, if_true, execs, hexec']
      refine ih ?_ ?_ h
      · rfl
      · rw [hev]

/-- Settles O60. -/
theorem readsLeaveNoTrace : Obligations.ReadsLeaveNoTrace := fun _ _ _ h => execs_filter_reads rfl rfl h

end Sys2Proof.Machine
end

section
/-! SUPPORT. Encoding and decoding (30_encoding.md R65 to R79): the fields of a header word, the decoder as the inverse
of the encoder, the headers of the seven commands, what a step takes off the stream, and the wire forms. -/

namespace Sys2Proof.Machine

/-! ### The fields of a header word -/

/-- `flg[39:33]`, the reserved flags of a header (R66, R69). -/
def flgReserved (h : W64) : BitVec 7 := h.extractLsb' 33 7

/-- The word with the given fields (R66); `headerWord` is the one whose reserved fields are zero. -/
def fieldWord (op sel len : BitVec 8) (flg : BitVec 7) (db : Bool) (rsv : BitVec 32) : W64 :=
  op ++ sel ++ len ++ (flg ++ BitVec.ofBool db) ++ rsv

theorem headerWord_eq (op sel len : BitVec 8) (db : Bool) :
    headerWord op sel len db = fieldWord op sel len 0 db 0 := rfl

section
variable (op sel len : BitVec 8) (flg : BitVec 7) (db : Bool) (rsv : BitVec 32)

@[simp] theorem opField_fieldWord : opField (fieldWord op sel len flg db rsv) = op := by
  rw [opField, fieldWord, BitVec.extractLsb'_append_eq_of_le (by decide),
    BitVec.extractLsb'_append_eq_of_le (by decide), BitVec.extractLsb'_append_eq_of_le (by decide)]
  exact BitVec.extractLsb'_append_eq_left

@[simp] theorem selField_fieldWord : selField (fieldWord op sel len flg db rsv) = sel := by
  rw [selField, fieldWord, BitVec.extractLsb'_append_eq_of_le (by decide),
    BitVec.extractLsb'_append_eq_of_le (by decide), BitVec.extractLsb'_append_eq_of_le (by decide)]
  exact BitVec.extractLsb'_append_eq_right

@[simp] theorem lenField_fieldWord : lenField (fieldWord op sel len flg db rsv) = len := by
  rw [lenField, fieldWord, BitVec.extractLsb'_append_eq_of_le (by decide),
    BitVec.extractLsb'_append_eq_of_le (by decide)]
  exact BitVec.extractLsb'_append_eq_right

@[simp] theorem flgField_fieldWord : flgField (fieldWord op sel len flg db rsv) = flg ++ BitVec.ofBool db := by
  rw [flgField, fieldWord, BitVec.extractLsb'_append_eq_of_le (by decide)]
  exact BitVec.extractLsb'_append_eq_right

@[simp] theorem flgReserved_fieldWord : flgReserved (fieldWord op sel len flg db rsv) = flg := by
  rw [flgReserved, fieldWord, BitVec.extractLsb'_append_eq_of_le (by decide),
    BitVec.extractLsb'_append_eq_of_add_le (by decide)]
  exact BitVec.extractLsb'_append_eq_left

@[simp] theorem dbField_fieldWord : dbField (fieldWord op sel len flg db rsv) = db := by
  simp only [dbField, fieldWord, BitVec.getLsbD_append]
  simp

@[simp] theorem rsvField_fieldWord : rsvField (fieldWord op sel len flg db rsv) = rsv :=
  BitVec.extractLsb'_append_eq_right

end

/-- The fields of a header are all of it. -/
theorem fieldWord_fields (h : W64) :
    fieldWord (opField h) (selField h) (lenField h) (flgReserved h) (dbField h) (rsvField h) = h := by
  refine BitVec.eq_of_getLsbD_eq fun i hi => ?_
  simp only [fieldWord, opField, selField, lenField, flgReserved, dbField, rsvField, BitVec.getLsbD_append,
    BitVec.getLsbD_extractLsb', BitVec.getLsbD_ofBool]
  grind

theorem fieldWord_inj {op sel len op' sel' len' : BitVec 8} {flg flg' : BitVec 7} {db db' : Bool}
    {rsv rsv' : BitVec 32} : fieldWord op sel len flg db rsv = fieldWord op' sel' len' flg' db' rsv' ↔
      op = op' ∧ sel = sel' ∧ len = len' ∧ flg = flg' ∧ db = db' ∧ rsv = rsv' := by
  refine ⟨fun h => ⟨?_, ?_, ?_, ?_, ?_, ?_⟩, by rintro ⟨rfl, rfl, rfl, rfl, rfl, rfl⟩; rfl⟩
  · simpa using congrArg opField h
  · simpa using congrArg selField h
  · simpa using congrArg lenField h
  · simpa using congrArg flgReserved h
  · simpa using congrArg dbField h
  · simpa using congrArg rsvField h

/-- A mask acts on each field by itself. -/
theorem and_fieldWord (h : W64) (op sel len : BitVec 8) (flg : BitVec 7) (db : Bool) (rsv : BitVec 32) :
    h &&& fieldWord op sel len flg db rsv = fieldWord (opField h &&& op) (selField h &&& sel) (lenField h &&& len)
      (flgReserved h &&& flg) (dbField h && db) (rsvField h &&& rsv) := by
  conv_lhs => rw [← fieldWord_fields h]
  rw [fieldWord, fieldWord, BitVec.and_append, BitVec.and_append, BitVec.and_append, BitVec.and_append,
    BitVec.and_append, BitVec.ofBool_and_ofBool, fieldWord]

/-- The fields of a word that `headerWord` builds. -/
theorem eq_headerWord_iff {h : W64} {op sel len : BitVec 8} {db : Bool} : h = headerWord op sel len db ↔
    opField h = op ∧ selField h = sel ∧ lenField h = len ∧ flgReserved h = 0 ∧ dbField h = db ∧ rsvField h = 0 := by
  rw [headerWord_eq, ← fieldWord_inj, fieldWord_fields]

/-- The decoder reads the reserved flags out of `flg`. -/
theorem flgField_reserved (h : W64) : (flgField h).extractLsb' 1 7 = flgReserved h := by
  rw [← fieldWord_fields h, flgField_fieldWord, flgReserved_fieldWord]
  exact BitVec.extractLsb'_append_eq_left

/-- `DB` is the lowest bit of `flg`. -/
theorem flgField_db (h : W64) : (flgField h).getLsbD 0 = dbField h := by
  simp only [flgField, dbField, BitVec.getLsbD_extractLsb']
  rfl

/-- `flg` is its reserved bits and `DB`. -/
theorem flgField_eq_zero_iff (h : W64) : flgField h = 0 ↔ flgReserved h = 0 ∧ dbField h = false := by
  constructor
  · intro hflg
    rw [← flgField_reserved, ← flgField_db, hflg]
    exact ⟨rfl, rfl⟩
  · rintro ⟨hres, hdb⟩
    rw [← fieldWord_fields h, flgField_fieldWord, hres, hdb]
    rfl

/-! ### A command's words, field by field -/

/-- A command's opcode (R68). -/
def opcodeOf : Instr → BitVec 8
  | .init _ _ _ => 0x01
  | .frame _ => 0x02
  | .osframe _ => 0x03
  | .osfail => 0x04
  | .close => 0x05
  | .reset => 0x06
  | .rd _ _ => 0x07

/-- A command's selector number, 0 in every command but RD (R69). -/
def selCodeOf : Instr → BitVec 8
  | .rd sel _ => sel.code
  | _ => 0

/-- A command's `DB` flag, clear in every command but RD (R69). -/
def dbOf : Instr → Bool
  | .rd _ db => db
  | _ => false

/-- A command's payload words (R71 to R73). -/
def payloadOf : Instr → List W64
  | .init w0 w1 w2 => [w0, w1, w2]
  | .frame xs => xs.map F64.bits
  | .osframe ys => ys.map F64.bits
  | _ => []

/-- A command's header word (R66). -/
def headerOf (i : Instr) : W64 :=
  headerWord (opcodeOf i) (selCodeOf i) (BitVec.ofNat 8 (payloadOf i).length) (dbOf i)

/-- Every encoding is a header with the command's own fields, and its payload. -/
theorem encode_eq (i : Instr) : encode i = headerOf i :: payloadOf i := by
  cases i with
  | frame xs => simp [encode, headerOf, opcodeOf, selCodeOf, dbOf, payloadOf]
  | osframe ys => simp [encode, headerOf, opcodeOf, selCodeOf, dbOf, payloadOf]
  | _ => rfl

theorem payloadOf_length_le {i : Instr} (h : wellFormed i = true) : (payloadOf i).length ≤ maxPayload := by
  cases i with
  | frame xs => simpa [wellFormed, payloadOf] using h
  | osframe ys => simpa [wellFormed, payloadOf] using h
  | _ => simp [payloadOf, maxPayload]

/-- The header of a well-formed command announces its payload (R67). -/
theorem lenField_headerOf {i : Instr} (h : wellFormed i = true) :
    (lenField (headerOf i)).toNat = (payloadOf i).length := by
  have hle := payloadOf_length_le h
  rw [headerOf, Laws.lenField_headerWord, BitVec.toNat_ofNat, Nat.mod_eq_of_lt]
  exact Nat.lt_of_le_of_lt hle (by decide)

theorem map_bits_map_mk (ws : List W64) : (ws.map F64.mk).map F64.bits = ws := by
  rw [List.map_map]
  exact List.map_id ws

theorem map_mk_map_bits (xs : List F64) : (xs.map F64.bits).map F64.mk = xs := by
  rw [List.map_map]
  exact List.map_id xs

/-! ### The decoder, part by part -/

/-- The number of a selector finds it again (R35). -/
theorem selectorOf?_eq_some_iff {b : BitVec 8} {sel : Selector} : selectorOf? b = some sel ↔ sel.code = b := by
  constructor
  · intro h
    have hfound := List.find?_some h
    exact eq_of_beq hfound
  · rintro rfl
    cases sel with
    | sp c => revert c; decide
    | tp c => revert c; decide
    | _ => rfl

/-- RD decodes from an empty `len`, a defined selector, and `DB` only with a peak selector (R69). -/
theorem decodeRd_eq_ok_iff {h : W64} {i : Instr} : decodeRd h = .ok i ↔
    lenField h = 0 ∧ ∃ sel : Selector, sel.code = selField h ∧ (dbField h = true → sel.isPeak = true) ∧
      i = .rd sel (dbField h) := by
  constructor
  · intro h
    unfold decodeRd at h
    split at h
    · cases h
    next hlen =>
    split at h
    · cases h
    next sel hsel =>
    split at h
    · cases h
    next hdb =>
    cases h
    exact ⟨not_not.mp hlen, sel, selectorOf?_eq_some_iff.mp hsel, by simpa using hdb, rfl⟩
  · rintro ⟨hlen, sel, hcode, hdb, rfl⟩
    simp only [decodeRd, hlen, selectorOf?_eq_some_iff.mpr hcode]
    rw [if_neg (not_not.mpr rfl), if_neg (by simpa using hdb)]

/-- The payload decoder reads the commands other than RD, from their opcode and their payload. -/
theorem decodePayload_eq_ok_iff {op : BitVec 8} {pay : List W64} {i : Instr} :
    decodePayload op pay = .ok i ↔ isRead i = false ∧ opcodeOf i = op ∧ payloadOf i = pay := by
  constructor
  · intro h
    unfold decodePayload at h
    split_ifs at h with h1 h2 h3 h4 hnil h5 hnil h6 hnil
    · split at h <;> cases h
      exact ⟨rfl, h1.symm, rfl⟩
    · cases h
      exact ⟨rfl, h2.symm, map_bits_map_mk pay⟩
    · cases h
      exact ⟨rfl, h3.symm, map_bits_map_mk pay⟩
    · cases h
      exact ⟨rfl, h4.symm, hnil.symm⟩
    · cases h
      exact ⟨rfl, h5.symm, hnil.symm⟩
    · cases h
      exact ⟨rfl, h6.symm, hnil.symm⟩
  · rintro ⟨hread, rfl, rfl⟩
    cases i with
    | frame xs => exact congrArg (fun xs => Except.ok (Instr.frame xs)) (map_mk_map_bits xs)
    | osframe ys => exact congrArg (fun ys => Except.ok (Instr.osframe ys)) (map_mk_map_bits ys)
    | rd sel db => cases hread
    | _ => rfl

/-- The checks on a header that decodes, for RD and for the other commands (R69). -/
theorem decodeCommand_eq_ok_iff_checks {h : W64} {pay : List W64} {i : Instr} : decodeCommand h pay = .ok i ↔
    ¬ (opField h = 0 ∨ 7 < opField h) ∧ rsvField h = 0 ∧ flgReserved h = 0 ∧
      (opField h = 7 ∧ decodeRd h = .ok i ∨
        opField h ≠ 7 ∧ selField h = 0 ∧ dbField h = false ∧ decodePayload (opField h) pay = .ok i) := by
  have hflg := flgField_eq_zero_iff h
  rw [decodeCommand, flgField_reserved]
  split_ifs <;> simp_all

/-- RD's opcode is the highest, and no command has opcode 0 (R68). -/
theorem opcodeOf_defined (i : Instr) : ¬ (opcodeOf i = 0 ∨ 7 < opcodeOf i) := by
  cases i <;> simp [opcodeOf]

theorem opcodeOf_eq_seven_iff (i : Instr) : opcodeOf i = 7 ↔ isRead i = true := by
  cases i <;> simp [opcodeOf, isRead]

/-- A command other than RD has neither a selector nor a flag (R69). -/
theorem selCodeOf_dbOf_of_not_isRead {i : Instr} (h : isRead i = false) : selCodeOf i = 0 ∧ dbOf i = false := by
  cases i with
  | rd sel db => cases h
  | _ => exact ⟨rfl, rfl⟩

/-- A command other than RD is well formed as soon as its payload fits `len`. -/
theorem wellFormed_of_not_isRead {i : Instr} (h : isRead i = false) (hlen : (payloadOf i).length ≤ maxPayload) :
    wellFormed i = true := by
  cases i with
  | frame xs => simpa [wellFormed, payloadOf] using hlen
  | osframe ys => simpa [wellFormed, payloadOf] using hlen
  | rd sel db => cases h
  | _ => rfl

theorem wellFormed_rd (sel : Selector) (db : Bool) :
    wellFormed (.rd sel db) = true ↔ (db = true → sel.isPeak = true) := by
  cases db <;> simp [wellFormed]

/-- A header and a payload are a command's words when the fields are the command's. -/
theorem encode_eq_cons_iff {i : Instr} {h : W64} {pay : List W64} (hlen : pay.length = (lenField h).toNat) :
    encode i = h :: pay ↔ opField h = opcodeOf i ∧ selField h = selCodeOf i ∧ flgReserved h = 0 ∧
      dbField h = dbOf i ∧ rsvField h = 0 ∧ payloadOf i = pay := by
  have hlenField : BitVec.ofNat 8 pay.length = lenField h := by
    rw [hlen, BitVec.ofNat_toNat, BitVec.setWidth_eq]
  rw [encode_eq, List.cons.injEq, eq_comm, headerOf, eq_headerWord_iff]
  constructor
  · rintro ⟨⟨hop, hsel, -, hflg, hdb, hrsv⟩, hpay⟩
    exact ⟨hop, hsel, hflg, hdb, hrsv, hpay⟩
  · rintro ⟨hop, hsel, hflg, hdb, hrsv, rfl⟩
    exact ⟨⟨hop, hsel, hlenField.symm, hflg, hdb, hrsv⟩, rfl⟩

/-- DECODING IS THE INVERSE OF ENCODING, one command at a time: a header with the payload it announces decodes to a
command exactly when the command is well formed and these are its words. -/
theorem decodeCommand_eq_ok_iff {h : W64} {pay : List W64} (hlen : pay.length = (lenField h).toNat) {i : Instr} :
    decodeCommand h pay = .ok i ↔ wellFormed i = true ∧ encode i = h :: pay := by
  rw [decodeCommand_eq_ok_iff_checks, encode_eq_cons_iff hlen]
  constructor
  · rintro ⟨-, hrsv, hflg, ⟨hop, hrd⟩ | ⟨-, hsel, hdb, hdec⟩⟩
    · obtain ⟨hlen0, sel, hcode, hpeak, rfl⟩ := decodeRd_eq_ok_iff.mp hrd
      have hpay : pay = [] := List.length_eq_zero_iff.mp (by rw [hlen, hlen0]; rfl)
      exact ⟨(wellFormed_rd sel _).mpr hpeak, hop, hcode.symm, hflg, rfl, hrsv, hpay.symm⟩
    · obtain ⟨hread, hop, rfl⟩ := decodePayload_eq_ok_iff.mp hdec
      obtain ⟨hsel0, hdb0⟩ := selCodeOf_dbOf_of_not_isRead hread
      have hfits : (payloadOf i).length ≤ maxPayload := hlen ▸ Nat.le_of_lt_succ (lenField h).isLt
      exact ⟨wellFormed_of_not_isRead hread hfits, hop.symm, hsel.trans hsel0.symm, hflg, hdb.trans hdb0.symm, hrsv,
        rfl⟩
  · rintro ⟨hwf, hop, hsel, hflg, hdb, hrsv, rfl⟩
    refine ⟨hop ▸ opcodeOf_defined i, hrsv, hflg, ?_⟩
    cases hread : isRead i with
    | false =>
      obtain ⟨hsel0, hdb0⟩ := selCodeOf_dbOf_of_not_isRead hread
      have hop7 : opField h ≠ 7 := by rw [hop, ne_eq, opcodeOf_eq_seven_iff, hread]; exact Bool.false_ne_true
      exact .inr ⟨hop7, hsel.trans hsel0, hdb.trans hdb0, decodePayload_eq_ok_iff.mpr ⟨hread, hop.symm, rfl⟩⟩
    | true =>
      cases i with
      | rd sel db =>
        obtain rfl : dbField h = db := hdb
        have hlen0 : lenField h = 0 := BitVec.eq_of_toNat_eq hlen.symm
        exact .inl ⟨hop, decodeRd_eq_ok_iff.mpr ⟨hlen0, sel, hsel.symm, (wellFormed_rd sel _).mp hwf, rfl⟩⟩
      | _ => cases hread

/-! ### The decoder on a stream (O1, O2, O6) -/

section
variable {h : W64} {ws : List W64}

theorem decode_of_short (hws : ws.length < (lenField h).toNat) : decode (h :: ws) = .incomplete := by
  simp only [decode, if_pos hws]

theorem decode_of_error (hws : (lenField h).toNat ≤ ws.length) {why : HeaderFault}
    (hdec : decodeCommand h (ws.take (lenField h).toNat) = .error why) :
    decode (h :: ws) = .illegal why (ws.drop (lenField h).toNat) := by
  simp only [decode, if_neg (Nat.not_lt.mpr hws), hdec]

theorem decode_of_ok (hws : (lenField h).toNat ≤ ws.length) {i : Instr}
    (hdec : decodeCommand h (ws.take (lenField h).toNat) = .ok i) :
    decode (h :: ws) = .command i (ws.drop (lenField h).toNat) := by
  simp only [decode, if_neg (Nat.not_lt.mpr hws), hdec]

/-- The three answers of the decoder (R67, R79): the next command's words are not all there, or the header and the
payload it announces are a command or illegal, and all of them leave the stream. -/
theorem decode_cons_cases (h : W64) (ws : List W64) :
    (ws.length < (lenField h).toNat ∧ decode (h :: ws) = .incomplete) ∨
    (∃ why, decodeCommand h (ws.take (lenField h).toNat) = .error why ∧ (lenField h).toNat ≤ ws.length ∧
      decode (h :: ws) = .illegal why (ws.drop (lenField h).toNat)) ∨
    (∃ i, decodeCommand h (ws.take (lenField h).toNat) = .ok i ∧ (lenField h).toNat ≤ ws.length ∧
      decode (h :: ws) = .command i (ws.drop (lenField h).toNat)) := by
  rcases Nat.lt_or_ge ws.length (lenField h).toNat with hws | hws
  · exact .inl ⟨hws, decode_of_short hws⟩
  · cases hdec : decodeCommand h (ws.take (lenField h).toNat) with
    | error why => exact .inr (.inl ⟨why, rfl, hws, decode_of_error hws hdec⟩)
    | ok i => exact .inr (.inr ⟨i, rfl, hws, decode_of_ok hws hdec⟩)

end

/-- Settles O1: the header of the encoding announces its payload, so the decoder takes off exactly that. -/
theorem decodeEncodeRoundTrip : Obligations.DecodeEncodeRoundTrip := by
  intro i rest hwf
  have hlen := lenField_headerOf hwf
  have htake : (payloadOf i ++ rest).take (lenField (headerOf i)).toNat = payloadOf i := by
    rw [hlen, List.take_left]
  have hdrop : (payloadOf i ++ rest).drop (lenField (headerOf i)).toNat = rest := by
    rw [hlen, List.drop_left]
  have hdec : decodeCommand (headerOf i) (payloadOf i) = .ok i :=
    (decodeCommand_eq_ok_iff hlen.symm).mpr ⟨hwf, encode_eq i⟩
  have h := decode_of_ok (ws := payloadOf i ++ rest) (by rw [hlen, List.length_append]; omega) (htake.symm ▸ hdec)
  rw [encode_eq, List.cons_append, h, hdrop]

/-- Settles O2: what the decoder takes off the stream is the encoding of what it answers, and the rest is left. -/
theorem encodeDecodeCanonical : Obligations.EncodeDecodeCanonical := by
  intro ws rest i hdec
  cases ws with
  | nil => cases hdec
  | cons h ws =>
    rcases decode_cons_cases h ws with ⟨-, hd⟩ | ⟨_, -, -, hd⟩ | ⟨j, hj, hws, hd⟩ <;> cases hd.symm.trans hdec
    obtain ⟨hwf, henc⟩ := (decodeCommand_eq_ok_iff (List.length_take_of_le hws)).mp hj
    exact ⟨hwf, by rw [henc, List.cons_append, List.take_append_drop]⟩

/-- Settles O6: each of the worked words is an encoding. -/
theorem workedEncodingsDecode : Obligations.WorkedEncodingsDecode :=
  ⟨decodeEncodeRoundTrip (.init 0x000003020000BB80 0 0) [] rfl,
    decodeEncodeRoundTrip (.frame [⟨0x3FF0000000000000⟩, ⟨0xBFE0000000000000⟩]) [] rfl,
    decodeEncodeRoundTrip (.rd (.sp 1) true) [] rfl, decodeEncodeRoundTrip (.rd .m false) [] rfl,
    decodeEncodeRoundTrip .close [] rfl⟩

/-! ### What a step takes off the stream (O8, O3) -/

/-- Settles O8: of the three things a step can do, the decoder's answer leaves one. -/
theorem stepRefusesIllegalCommand : Obligations.StepRefusesIllegalCommand := by
  intro s why rest hdec
  rcases step_cases s with ⟨hf, _⟩ | ⟨_, _, hf, hstep⟩ | ⟨_, _, hf, _⟩ <;> cases hdec.symm.trans hf
  exact hstep

theorem step_of_incomplete {s : State} (hdec : decode s.commands = .incomplete) : step s = .next s := by
  rcases step_cases s with ⟨_, hstep⟩ | ⟨_, _, hf, _⟩ | ⟨_, _, hf, _⟩
  · exact hstep
  · cases hdec.symm.trans hf
  · cases hdec.symm.trans hf

/-- Settles O3: the decoder leaves the words behind the payload, and no command touches those. -/
theorem stepConsumesDeclaredLength : Obligations.StepConsumesDeclaredLength := by
  intro s h ws hs
  change (ws.length < (lenField h).toNat → _) ∧ ((lenField h).toNat ≤ ws.length → _)
  rcases decode_cons_cases h ws with ⟨hws, hd⟩ | ⟨_, -, hws, hd⟩ | ⟨i, -, hws, hd⟩ <;> rw [← hs] at hd
  · exact ⟨fun _ => step_of_incomplete hd, fun hge => absurd hws (Nat.not_lt.mpr hge)⟩
  · exact ⟨fun hlt => absurd hlt (Nat.not_lt.mpr hws), fun _ => ⟨_, stepRefusesIllegalCommand s _ _ hd, rfl⟩⟩
  · obtain ⟨t, -, hexec, -, hcommands, -⟩ :=
      everyCommandAnswersOnce i { s with commands := ws.drop (lenField h).toNat }
    exact ⟨fun hlt => absurd hlt (Nat.not_lt.mpr hws),
      fun _ => ⟨t, (stepRunsDecodedCommand s i _ hd).trans hexec, hcommands⟩⟩

/-! ### The headers of each command (O5) -/

section
variable {h : W64} {pay : List W64} (hlen : pay.length = (lenField h).toNat)

theorem eq_headerWord_len_iff {op sel len : BitVec 8} {db : Bool} :
    h = headerWord op sel (lenField h) db ∧ lenField h = len ↔ h = headerWord op sel len db := by
  simp only [eq_headerWord_iff]
  tauto

include hlen

theorem payload_length_iff (len : BitVec 8) : pay.length = len.toNat ↔ lenField h = len := by
  rw [hlen, BitVec.toNat_inj]

/-- A header decodes to a command other than RD when `op` is its opcode and every other field but `len` is zero. -/
theorem decodeCommand_eq_ok_iff_of_not_isRead {i : Instr} (hread : isRead i = false) : decodeCommand h pay = .ok i ↔
    h = headerWord (opcodeOf i) 0 (lenField h) false ∧ payloadOf i = pay := by
  obtain ⟨hsel, hdb⟩ := selCodeOf_dbOf_of_not_isRead hread
  rw [decodeCommand_eq_ok_iff hlen, encode_eq_cons_iff hlen, eq_headerWord_iff, hsel, hdb]
  constructor
  · rintro ⟨-, hop, hsel, hflg, hdb, hrsv, hpay⟩
    exact ⟨⟨hop, hsel, rfl, hflg, hdb, hrsv⟩, hpay⟩
  · rintro ⟨⟨hop, hsel, -, hflg, hdb, hrsv⟩, rfl⟩
    have hfits : (payloadOf i).length ≤ maxPayload := hlen ▸ Nat.le_of_lt_succ (lenField h).isLt
    exact ⟨wellFormed_of_not_isRead hread hfits, hop, hsel, hflg, hdb, hrsv, rfl⟩

theorem decodeCommand_init_iff :
    (∃ w0 w1 w2, decodeCommand h pay = .ok (.init w0 w1 w2)) ↔ h = headerWord 0x01 0 3 false := by
  simp only [decodeCommand_eq_ok_iff_of_not_isRead hlen (i := .init _ _ _) rfl, opcodeOf, payloadOf, exists_and_left]
  rw [← eq_headerWord_len_iff (len := 3), ← payload_length_iff hlen]
  refine and_congr_right fun _ => Iff.trans ?_ List.length_eq_three.symm
  simp only [eq_comm]

/-- The two commands whose payload is one word per sample take any `len`. -/
theorem decodeCommand_samples_iff {cmd : List F64 → Instr} (hread : ∀ xs, isRead (cmd xs) = false)
    (hpay : ∀ xs, payloadOf (cmd xs) = xs.map F64.bits) {op : BitVec 8} (hop : ∀ xs, opcodeOf (cmd xs) = op) :
    (∃ xs, decodeCommand h pay = .ok (cmd xs)) ↔ h = headerWord op 0 (lenField h) false := by
  simp only [decodeCommand_eq_ok_iff_of_not_isRead hlen (hread _), hop, hpay, exists_and_left]
  exact and_iff_left ⟨pay.map F64.mk, map_bits_map_mk pay⟩

/-- The commands without operands have one header each. -/
theorem decodeCommand_bare_iff {i : Instr} (hread : isRead i = false) (hpay : payloadOf i = []) :
    decodeCommand h pay = .ok i ↔ h = headerWord (opcodeOf i) 0 0 false := by
  rw [decodeCommand_eq_ok_iff_of_not_isRead hlen hread, hpay, ← eq_headerWord_len_iff (len := 0),
    ← payload_length_iff hlen, eq_comm (a := [])]
  exact and_congr_right fun _ => List.length_eq_zero_iff.symm

/-- RD's headers: any selector number that is defined, and `DB` with a peak selector (R69). -/
theorem decodeCommand_rd_iff : (∃ sel db, decodeCommand h pay = .ok (.rd sel db)) ↔
    h = headerWord 0x07 (selField h) 0 (dbField h) ∧
      ∃ sel : Selector, sel.code = selField h ∧ (dbField h = true → sel.isPeak = true) := by
  simp only [decodeCommand_eq_ok_iff hlen, encode_eq_cons_iff hlen, wellFormed_rd, eq_headerWord_iff]
  rw [← payload_length_iff hlen]
  constructor
  · rintro ⟨sel, db, hpeak, hop, hsel, hflg, rfl, hrsv, rfl⟩
    exact ⟨⟨hop, trivial, rfl, hflg, trivial, hrsv⟩, sel, hsel.symm, hpeak⟩
  · rintro ⟨⟨hop, -, hpay, hflg, -, hrsv⟩, sel, hsel, hpeak⟩
    exact ⟨sel, _, hpeak, hop, hsel.symm, hflg, rfl, hrsv, (List.length_eq_zero_iff.mp hpay).symm⟩

end

/-- The mask that keeps every bit. -/
theorem and_mask_all (h w : W64) : h &&& 0xFFFFFFFFFFFFFFFF = w ↔ h = w := by
  rw [show (0xFFFFFFFFFFFFFFFF : W64) = BitVec.allOnes 64 from rfl, BitVec.and_allOnes]

/-- The mask that leaves `len` out (R70: FRAME and OSFRAME). -/
theorem and_mask_samples (h : W64) (op : BitVec 8) :
    h &&& 0xFFFF00FFFFFFFFFF = headerWord op 0 0 false ↔ h = headerWord op 0 (lenField h) false := by
  have hmask : (0xFFFF00FFFFFFFFFF : W64) =
      fieldWord (.allOnes 8) (.allOnes 8) 0 (.allOnes 7) true (.allOnes 32) := rfl
  rw [hmask, and_fieldWord, headerWord_eq, fieldWord_inj, eq_headerWord_iff]
  simp only [BitVec.and_allOnes]
  simp

/-- The mask that leaves `sel` and `DB` out (R70: RD). -/
theorem and_mask_rd (h : W64) (op : BitVec 8) :
    h &&& 0xFF00FFFEFFFFFFFF = headerWord op 0 0 false ↔ h = headerWord op (selField h) 0 (dbField h) := by
  have hmask : (0xFF00FFFEFFFFFFFF : W64) =
      fieldWord (.allOnes 8) 0 (.allOnes 8) (.allOnes 7) false (.allOnes 32) := rfl
  rw [hmask, and_fieldWord, headerWord_eq, fieldWord_inj, eq_headerWord_iff]
  simp only [BitVec.and_allOnes]
  simp

/-- Settles O5: each match is the header with zeros in the fields its mask leaves out. -/
theorem headerSelectsByMatchAndMask : Obligations.HeaderSelectsByMatchAndMask := by
  intro h pay hlen
  refine ⟨?_, ?_, ?_, ?_, ?_, ?_, ?_⟩
  · exact (decodeCommand_init_iff hlen).trans (and_mask_all h _).symm
  · exact (decodeCommand_samples_iff hlen (cmd := .frame) (fun _ => rfl) (fun _ => rfl) fun _ => rfl).trans
      (and_mask_samples h 0x02).symm
  · exact (decodeCommand_samples_iff hlen (cmd := .osframe) (fun _ => rfl) (fun _ => rfl) fun _ => rfl).trans
      (and_mask_samples h 0x03).symm
  · exact (decodeCommand_bare_iff hlen rfl rfl).trans (and_mask_all h _).symm
  · exact (decodeCommand_bare_iff hlen rfl rfl).trans (and_mask_all h _).symm
  · exact (decodeCommand_bare_iff hlen rfl rfl).trans (and_mask_all h _).symm
  · exact (decodeCommand_rd_iff hlen).trans (and_congr_left' (and_mask_rd h 0x07).symm)

/-! ### The static conditions (O4) -/

theorem exists_decodeRd_iff (h : W64) : (∃ i, decodeRd h = .ok i) ↔
    lenField h = 0 ∧ ∃ sel : Selector, sel.code = selField h ∧ (dbField h = true → sel.isPeak = true) := by
  simp only [decodeRd_eq_ok_iff]
  constructor
  · rintro ⟨_, hlen, sel, hsel, hpeak, -⟩
    exact ⟨hlen, sel, hsel, hpeak⟩
  · rintro ⟨hlen, sel, hsel, hpeak⟩
    exact ⟨_, hlen, sel, hsel, hpeak, rfl⟩

/-- The opcodes below RD's, and the lengths they fix (R69). -/
theorem exists_decodePayload_iff (op : BitVec 8) (pay : List W64) : (∃ i, decodePayload op pay = .ok i) ↔
    (1 ≤ op.toNat ∧ op.toNat ≤ 6) ∧ (op.toNat = 1 → pay.length = 3) ∧ (4 ≤ op.toNat → pay.length = 0) := by
  constructor
  · rintro ⟨i, hdec⟩
    obtain ⟨hread, rfl, rfl⟩ := decodePayload_eq_ok_iff.mp hdec
    cases i with
    | rd sel db => cases hread
    | _ => simp [opcodeOf, payloadOf]
  · rintro ⟨hop, hinit, hbare⟩
    have hcases : op = 1 ∨ op = 2 ∨ op = 3 ∨ op = 4 ∨ op = 5 ∨ op = 6 := by bv_omega
    rcases hcases with rfl | rfl | rfl | rfl | rfl | rfl
    · obtain ⟨w0, w1, w2, rfl⟩ := List.length_eq_three.mp (hinit rfl)
      exact ⟨.init w0 w1 w2, rfl⟩
    · exact ⟨_, rfl⟩
    · exact ⟨_, rfl⟩
    · obtain rfl := List.length_eq_zero_iff.mp (hbare (by decide))
      exact ⟨.osfail, rfl⟩
    · obtain rfl := List.length_eq_zero_iff.mp (hbare (by decide))
      exact ⟨.close, rfl⟩
    · obtain rfl := List.length_eq_zero_iff.mp (hbare (by decide))
      exact ⟨.reset, rfl⟩

/-- The static conditions on a header (R69), in the words of O4. -/
def HeaderOk (h : W64) : Prop :=
  (1 ≤ (opField h).toNat ∧ (opField h).toNat ≤ 7) ∧ rsvField h = 0 ∧ flgReserved h = 0 ∧
    ((opField h).toNat ≠ 7 → selField h = 0 ∧ flgField h = 0) ∧ ((opField h).toNat = 1 → (lenField h).toNat = 3) ∧
    ((opField h).toNat = 4 ∨ (opField h).toNat = 5 ∨ (opField h).toNat = 6 ∨ (opField h).toNat = 7 →
      (lenField h).toNat = 0) ∧
    ((opField h).toNat = 7 → ∃ x : Selector, x.code = selField h ∧ (dbField h = true → x.isPeak = true))

/-- The decoder checks the static conditions, and nothing else. -/
theorem exists_decodeCommand_iff {h : W64} {pay : List W64} (hlen : pay.length = (lenField h).toNat) :
    (∃ i, decodeCommand h pay = .ok i) ↔ HeaderOk h := by
  have hdefined : ¬ (opField h = 0 ∨ 7 < opField h) ↔ 1 ≤ (opField h).toNat ∧ (opField h).toNat ≤ 7 := by bv_omega
  have hseven : opField h = 7 ↔ (opField h).toNat = 7 := by bv_omega
  have hzero : lenField h = 0 ↔ (lenField h).toNat = 0 := by bv_omega
  simp only [decodeCommand_eq_ok_iff_checks, exists_and_left, exists_or, exists_decodeRd_iff,
    exists_decodePayload_iff, hdefined, hseven, hzero, hlen, HeaderOk, flgField_eq_zero_iff, ne_eq]
  constructor
  · rintro ⟨hop, hrsv, hflg, ⟨h7, hbare, hsel⟩ | ⟨h7, hsel, hdb, -, hinit, hbare⟩⟩
    · exact ⟨hop, hrsv, hflg, fun hne => absurd h7 hne, fun h1 => by omega, fun _ => hbare, fun _ => hsel⟩
    · exact ⟨hop, hrsv, hflg, fun _ => ⟨hsel, hflg, hdb⟩, hinit, fun h4 => hbare (by omega), fun h => absurd h h7⟩
  · rintro ⟨hop, hrsv, hflg, hother, hinit, hbare, hrd⟩
    refine ⟨hop, hrsv, hflg, ?_⟩
    by_cases h7 : (opField h).toNat = 7
    · exact .inl ⟨h7, hbare (by omega), hrd h7⟩
    · obtain ⟨hsel, -, hdb⟩ := hother h7
      exact .inr ⟨h7, hsel, hdb, by omega, hinit, fun h4 => hbare (by omega)⟩

/-- Settles O4: a header that decodes meets the static conditions, and one that does not is refused. -/
theorem illegalIffNotWellFormed : Obligations.IllegalIffNotWellFormed := by
  intro s h ws hs hws
  change (HeaderOk h ↔ _) ∧ (¬ HeaderOk h → _)
  rw [← exists_decodeCommand_iff (List.length_take_of_le hws)]
  rcases decode_cons_cases h ws with ⟨hlt, -⟩ | ⟨why, hc, -, hd⟩ | ⟨i, hc, -, hd⟩
  · exact absurd hlt (Nat.not_lt.mpr hws)
  · rw [← hs] at hd
    refine ⟨⟨fun ⟨i, hi⟩ => ?_, fun ⟨i, hi⟩ => ?_⟩, fun _ => stepRefusesIllegalCommand s why _ hd⟩
    · cases hc.symm.trans hi
    · cases hd.symm.trans hi
  · rw [← hs] at hd
    exact ⟨⟨fun _ => ⟨i, hd⟩, fun _ => ⟨i, hc⟩⟩, fun hno => absurd ⟨i, hc⟩ hno⟩

/-! ### The wire forms (O48) -/

theorem packResponse_toNat (r : Response) : (packResponse r).toNat =
    2 ^ 68 * (codeBits r.code).toNat + 2 ^ 64 * r.valid.toNat + r.data.toNat := by
  simp only [packResponse, toNat_append_eq, BitVec.toNat_ofBool, BitVec.toNat_ofNat]
  omega

theorem eventTag_toNat (kind count : BitVec 8) :
    (eventTag kind count).toNat = 2 ^ 56 * kind.toNat + 2 ^ 48 * count.toNat := by
  simp only [eventTag, toNat_append_eq, BitVec.toNat_ofNat]
  omega

/-- Settles O48: the fields of a response and of a tag, each at its place. -/
theorem wireForms : Obligations.WireForms := by
  refine ⟨fun r => ?_, rfl, rfl, fun xs hxs => ?_⟩
  · rw [packResponse_toNat]
    cases r.code <;> rfl
  · have htag : eventTag 1 (BitVec.ofNat 8 xs.length) = BitVec.ofNat 64 (2 ^ 56 + 2 ^ 48 * xs.length) := by
      refine BitVec.eq_of_toNat_eq ?_
      rw [eventTag_toNat]
      simp only [BitVec.toNat_ofNat, BitVec.reduceToNat]
      omega
    rw [eventWords, htag]
    rfl

end Sys2Proof.Machine
end

section
/-! SUPPORT. The weighting filters (40_filter.md R90 to R98): the association of a stage, one sample on its channel
register by register, and one frame channel by channel. -/

namespace Sys2Proof.Machine

/-! ### A stage (O22) -/

/-- Settles O22: a stage is its five-term sum in the association of R92, whatever its `a0`. -/
theorem biquadAssociation : Obligations.BiquadAssociation :=
  fun _ _ _ _ _ _ _ _ _ _ _ => rfl

/-! ### One sample on its channel (O21) -/

/-- The pre-filter reads the new input history (R91). -/
@[simp] theorem filterStep_y (p q : Stage) (x : F64) (c : Channel) : (filterStep p q x c).y =
    shiftIn (biquad p (shiftIn x c.x) c.y.h0 c.y.h1) c.y := rfl
/-- The RLB filter reads the pre-filter's new output history (R91). -/
@[simp] theorem filterStep_z (p q : Stage) (x : F64) (c : Channel) : (filterStep p q x c).z =
    shiftIn (biquad q (filterStep p q x c).y c.z.h0 c.z.h1) c.z := rfl

/-- The histories after a sample are those of the filter pair on the channel as it was: the peak detector before it
and the accumulator after it leave them alone (R158). -/
@[simp] theorem ingestSample_x (e : Bool) (p q : Stage) (x : F64) (c : Channel) :
    (ingestSample e p q x c).x = (filterStep p q x c).x := by cases e <;> rfl
@[simp] theorem ingestSample_y (e : Bool) (p q : Stage) (x : F64) (c : Channel) :
    (ingestSample e p q x c).y = (filterStep p q x c).y := by cases e <;> rfl
@[simp] theorem ingestSample_z (e : Bool) (p q : Stage) (x : F64) (c : Channel) :
    (ingestSample e p q x c).z = (filterStep p q x c).z := by cases e <;> rfl
/-- The accumulator takes the square of the K-weighted sample, the new `Z[0]` (R102). -/
@[simp] theorem ingestSample_acc (e : Bool) (p q : Stage) (x : F64) (c : Channel) : (ingestSample e p q x c).acc =
    fAdd c.acc (fMul (filterStep p q x c).z.h0 (filterStep p q x c).z.h0) := by cases e <;> rfl

theorem Channel.ext_registers {c d : Channel} (hw : c.w = d.w) (hx : c.x = d.x) (hy : c.y = d.y) (hz : c.z = d.z)
    (hacc : c.acc = d.acc) (hspk : c.spk = d.spk) (htpk : c.tpk = d.tpk) : c = d := by
  cases c; cases d; simp_all only

/-- Settles O21: the channel after a sample, one register at a time. -/
theorem sampleRunsPeakFilterAccumulate : Obligations.SampleRunsPeakFilterAccumulate := by
  intro spEn pre rlb x c y0 z0
  have hx : (filterStep pre rlb x c).x = ⟨x, c.x.h0, c.x.h1⟩ := filterStep_x ..
  have hy : (filterStep pre rlb x c).y = ⟨y0, c.y.h0, c.y.h1⟩ := filterStep_y ..
  have hz : (filterStep pre rlb x c).z = ⟨z0, c.z.h0, c.z.h1⟩ := by rw [filterStep_z, hy]; rfl
  refine Channel.ext_registers (ingestSample_w ..) ((ingestSample_x ..).trans hx) ((ingestSample_y ..).trans hy)
    ((ingestSample_z ..).trans hz) ?acc ?peak (ingestSample_tpk ..)
  case acc => rw [ingestSample_acc, hz]
  case peak => rw [ingestSample_spk, raisePeak, ite_and]

/-! ### One frame, channel by channel (O23) -/

/-- Channel `k` after a frame is channel `k` before it with sample `k` on it (R97). -/
theorem getElem?_ingestFrame_chans {xs : List F64} {r : Session} {k : Nat} {x : F64} {c : Channel}
    (hx : xs[k]? = some x) (hc : r.chans[k]? = some c) :
    (ingestFrame xs r).chans[k]? = some (ingestSample r.spEn r.pre r.rlb x c) :=
  List.getElem?_zipWith_eq_some.mpr ⟨x, c, hx, hc, rfl⟩

/-- Settles O23: both frames put the same sample on the same channel, through the same filters. -/
theorem channelsAreIndependent : Obligations.ChannelsAreIndependent := by
  intro r1 r2 xs1 xs2 k hsp hpre hrlb hlen _ hk _ hchan hsample
  have hx1 : xs1[k]? = some xs1[k] := List.getElem?_eq_getElem hk
  have hc1 : r1.chans[k]? = some (r1.chans[k]'(hlen ▸ hk)) := List.getElem?_eq_getElem (hlen ▸ hk)
  have h1 := getElem?_ingestFrame_chans hx1 hc1
  have h2 := getElem?_ingestFrame_chans (hsample.symm.trans hx1) (hchan.symm.trans hc1)
  rw [← hsp, ← hpre, ← hrlb] at h2
  exact ⟨h1.trans h2.symm, by rw [h1]; rfl⟩

end Sys2Proof.Machine
end

section
/-! SUPPORT. The block cycle (41_channel_weighting.md R103, R104, R161). -/

namespace Sys2Proof.Machine

/-- Settles O24: the block power is read before the accumulators are cleared, and `integrate` on the cleared record
gives what the publish finds. -/
theorem blockCycleFollowsItsRule : Obligations.BlockCycleFollowsItsRule := by
  intro n r p r1
  have hpower : blockPower n r.chans = p := rfl
  have hrecord : integrate p (clearBlock r) = r1 := rfl
  rw [blockCycle, hpower, hrecord]

end Sys2Proof.Machine
end

section
/-! SUPPORT. The sliding-window integrator (42_integrator.md R110 to R114): one push by its rule, whole numbers under
exact arithmetic, and a window that takes one constant power. -/

namespace Sys2Proof.Machine

/-! ### One push (O32) -/

/-- Of the positions inside the window only the last is followed by position 0. -/
theorem nextPos_eq_zero_iff {w : Win} {g : Integrator} (hpos : g.pos.toNat < Config.slots w) :
    nextPos w g = 0 ↔ g.pos.toNat + 1 = Config.slots w := by
  constructor
  · intro h
    exact le_antisymm hpos (Nat.le_of_dvd (Nat.succ_pos _) (Nat.dvd_of_mod_eq_zero h))
  · intro h
    rw [nextPos, h, Nat.mod_self]

/-- The value evicted is the one in the slot at `POS`. -/
theorem evicted_of_getElem? {g : Integrator} {e : F64} (h : g.cache[g.pos.toNat]? = some e) : evicted g = e := by
  rw [evicted, List.getD_eq_getElem?_getD, h, Option.getD_some]

theorem pushPower_sum (w : Win) (p : F64) (g : Integrator) :
    (pushPower w p g).sum = fAdd (if g.filled = true then fSub g.sum (evicted g) else g.sum) p := rfl

/-- Settles O32. -/
theorem pushFollowsItsRule : Obligations.PushFollowsItsRule := by
  intro w p e g hslot hpos g'
  have hsum : g'.sum = fAdd (if g.filled = true then fSub g.sum e else g.sum) p := by
    rw [pushPower_sum, evicted_of_getElem? hslot]
  have hfilled : g'.filled = true ↔ g.filled = true ∨ g.pos.toNat + 1 = Config.slots w := by
    rw [pushPower_filled, Bool.or_eq_true, beq_iff_eq, nextPos_eq_zero_iff hpos]
  exact ⟨pushPower_cache w p g, hsum, pushPower_pos_toNat w p g, hfilled, pushPower_relThr w p g,
    pushPower_sumKept w p g, pushPower_nKept w p g, pushPower_hist w p g⟩

/-! ### Whole numbers below 2^53 are added and subtracted exactly -/

theorem one_eq_fOfNat : Config.one = fOfNat 1 := by decide +kernel

/-- The last step of an addition or subtraction whose exact result is a whole number. -/
theorem round_natCast_units (k : Nat) :
    (if (k * unitsOfOne : Int) = 0 then signedZero false
      else roundUnits (decide ((k * unitsOfOne : Int) < 0)) (k * unitsOfOne : Int).natAbs 1) = fOfNat k := by
  rw [← Nat.cast_mul, Int.natAbs_natCast, decide_eq_false (Int.natCast_nonneg _).not_gt, fOfNat]
  split
  next h => rw [Int.natCast_eq_zero.1 h, roundUnits_zero]
  next => rfl

theorem fAdd_fOfNat {m n : Nat} (h : m + n < 2 ^ 53) : fAdd (fOfNat m) (fOfNat n) = fOfNat (m + n) := by
  have hm : m < 2 ^ 53 := by omega
  have hn : n < 2 ^ 53 := by omega
  rw [fAdd_finite (isFinite_fOfNat hm) (isFinite_fOfNat hn), signedUnits_fOfNat hm, signedUnits_fOfNat hn,
    ← add_mul, ← Nat.cast_add, fOfNat_sign, fOfNat_sign]
  exact round_natCast_units (m + n)

theorem fSub_fOfNat {m n : Nat} (hle : n ≤ m) (hm : m < 2 ^ 53) : fSub (fOfNat m) (fOfNat n) = fOfNat (m - n) := by
  have hn : n < 2 ^ 53 := hle.trans_lt hm
  rw [fSub_finite (isFinite_fOfNat hm) (isFinite_fOfNat hn), signedUnits_fOfNat hm, signedUnits_fOfNat hn,
    ← sub_mul, ← Nat.cast_sub hle, fOfNat_sign, fOfNat_sign]
  exact round_natCast_units (m - n)

/-- The left-to-right sum of `n` ones is exactly `n`. -/
theorem foldl_fAdd_replicate_one {n : Nat} (h : n < 2 ^ 53) :
    (List.replicate n Config.one).foldl fAdd Config.zero = fOfNat n := by
  induction n with
  | zero => decide +kernel
  | succ n ih =>
    rw [List.replicate_succ', List.foldl_concat, ih (Nat.lt_of_succ_lt h), one_eq_fOfNat, fAdd_fOfNat h]

/-! ### A window that takes one constant power (O34) -/

/-- A push into a filled window that holds the same power everywhere: the cache stays, and that power is taken off
the sum and put back, with two roundings. -/
theorem pushPower_constant {w : Win} {p : F64} {g : Integrator} (hfilled : g.filled = true)
    (hpos : g.pos.toNat < Config.slots w) (hcache : g.cache = List.replicate (Config.slots w) p) :
    (pushPower w p g).cache = g.cache ∧ (pushPower w p g).sum = fAdd (fSub g.sum p) p := by
  have hslot : g.cache[g.pos.toNat]? = some p := by rw [hcache, List.getElem?_replicate_of_lt hpos]
  obtain ⟨hcache', hsum, -⟩ := pushFollowsItsRule w p p g hslot hpos
  rw [if_pos hfilled] at hsum
  exact ⟨by rw [hcache', hcache, List.set_replicate_self], hsum⟩

theorem pushAll_replicate_filled {w : Win} (p : F64) {n : Nat} (hn : Config.slots w ≤ n) :
    (pushAll w (List.replicate n p) (newIntegrator w)).filled = true := by
  rwa [pushAll_filled, List.length_replicate]

/-- R114: when the two roundings give the sum back, it stays what it was at the filling, however many further pushes
of the same power come. -/
theorem pushAll_constant {w : Win} {p total : F64}
    (htotal : (List.replicate (Config.slots w) p).foldl fAdd Config.zero = total)
    (hback : fAdd (fSub total p) p = total) {n : Nat} (hn : Config.slots w ≤ n) :
    (pushAll w (List.replicate n p) (newIntegrator w)).cache = List.replicate (Config.slots w) p ∧
      (pushAll w (List.replicate n p) (newIntegrator w)).sum = total := by
  induction n, hn using Nat.le_induction with
  | base =>
    obtain ⟨hcache, hsum⟩ := pushAll_cache_sum w (List.replicate (Config.slots w) p) (by simp)
    exact ⟨by simpa using hcache, hsum.trans htotal⟩
  | succ n hn ih =>
    obtain ⟨hcache, hsum⟩ := ih
    have hpos : (pushAll w (List.replicate n p) (newIntegrator w)).pos.toNat < Config.slots w := by
      rw [pushAll_pos]
      exact Nat.mod_lt _ (slots_pos w)
    obtain ⟨hcache', hsum'⟩ := pushPower_constant (pushAll_replicate_filled p hn) hpos hcache
    rw [List.replicate_succ', pushAll_append_singleton]
    exact ⟨hcache'.trans hcache, by rw [hsum', hsum, hback]⟩

/-- `SLOTS[w]` over itself is 1.0 (R112). -/
theorem fDiv_slots_self (w : Win) : fDiv (fOfNat (Config.slots w)) (fOfNat (Config.slots w)) = Config.one := by
  cases w <;> decide +kernel

/-- Settles O34: the sum is `SLOTS[w]` at the filling, and taking 1.0 off and putting it back is exact. -/
theorem constantUnitPowerIsItsAverage : Obligations.ConstantUnitPowerIsItsAverage := by
  intro w n hn
  change windowAvg w (pushAll w (List.replicate n Config.one) (newIntegrator w)) = some Config.one
  have hslots : Config.slots w < 2 ^ 53 := (slots_lt w).trans (by decide)
  have hback : fAdd (fSub (fOfNat (Config.slots w)) Config.one) Config.one = fOfNat (Config.slots w) := by
    have hone : Config.slots w - 1 + 1 = Config.slots w := Nat.sub_add_cancel (slots_pos w)
    rw [one_eq_fOfNat, fSub_fOfNat (slots_pos w) hslots, fAdd_fOfNat (by rwa [hone]), hone]
  obtain ⟨-, hsum⟩ := pushAll_constant (foldl_fAdd_replicate_one hslots) hback hn
  rw [windowAvg, if_pos (pushAll_replicate_filled Config.one hn), windowEnergy, hsum, fDiv_slots_self]

end Sys2Proof.Machine
end

section
/-! SUPPORT. The published loudness is that of the integrators, under every change to a session (45_facade.md R164,
43_gating_histogram.md R132). -/

namespace Sys2Proof.Machine

/-- `PublishedInv` speaks of the integrators and the snapshot alone. -/
theorem PublishedInv.congr {r r' : Session} (h : PublishedInv r) (h0 : r'.int0 = r.int0) (h1 : r'.int1 = r.int1)
    (hsnap : r'.snap = r.snap) : PublishedInv r' := by
  obtain ⟨hm, hs, hi, hlra, hlow, hhigh⟩ := h
  constructor <;> rw [hsnap] <;> simp only [h0, h1] <;> assumption

/-- A publish, whatever the snapshot held before, makes it that of the integrators, which it leaves alone (R164). -/
theorem publishedInv_publish (r : Session) : PublishedInv (publish r) := ⟨rfl, rfl, rfl, rfl, rfl, rfl⟩

/-- A block cycle moves the integrators and then publishes (R103, R132). -/
theorem publishedInv_blockCycle (n : Nat) (r : Session) : PublishedInv (blockCycle n r) := publishedInv_publish _

theorem publishedInv_stable : SessionStable (fun _ r => PublishedInv r) where
  init w0 w1 w2 st _ _ := publishedInv_newSession w0 w1 w2 st
  frame _ r xs h _ _ _ := ⟨fun _ => publishedInv_blockCycle _ _,
    fun _ => h.congr (ingestFrame_int0 xs r) (ingestFrame_int1 xs r) (ingestFrame_snap xs r)⟩
  osframe _ _ _ h _ _ _ _ := h.congr rfl rfl rfl
  osfail _ _ h _ _ := h.congr rfl rfl rfl
  close _ r _ _ := ⟨fun _ => publishedInv_blockCycle _ r, fun _ => publishedInv_publish r⟩

/-- Settles O55: only a block cycle moves the integrators, and every block cycle ends in a publish. -/
theorem stepKeepsPublishedLoudness : Obligations.StepKeepsPublishedLoudness := fun _ _ hs h =>
  step_preserves publishedInv_stable hs h

end Sys2Proof.Machine
end

section
/-! SUPPORT. The gate (43_gating_histogram.md R120, R121, R125): the loudness of an energy, what one gate update does,
and that silence never passes (R131). -/

namespace Sys2Proof.Machine

/-! ### The loudness of an energy (O35) -/

theorem loud_of_pos {e : F64} (h : fGt e Config.zero = true) :
    loud e = fAdd Config.loudOfs (fMul Config.ten (Config.log10 e)) := by
  rw [loud, if_pos h]

/-- An energy of zero, below it or NaN does not pass the absolute gate (R120, R121). -/
theorem passesGate_loud_of_not_pos {e : F64} (h : fGt e Config.zero = false) : passesGate (loud e) = false := by
  rw [loud_of_not_pos h]
  decide

/-- Settles O35. -/
theorem loudFollowsItsRule : Obligations.LoudFollowsItsRule :=
  ⟨fun _ h => loud_of_pos h, fun _ h => ⟨loud_of_not_pos h, passesGate_loud_of_not_pos h⟩, loud_one, fun _ => rfl,
    by decide⟩

/-! ### One gate update (O39) -/

theorem gateUpdate_of_unfilled {w : Win} {g : Integrator} (h : g.filled = false) : gateUpdate w g = g := by
  simp [gateUpdate, h]

theorem gateUpdate_of_not_passes {w : Win} {g : Integrator} (h : passesGate (loud (windowEnergy w g)) = false) :
    gateUpdate w g = g := by
  simp [gateUpdate, h]

theorem gateUpdate_of_passes {w : Win} {g : Integrator} (hfilled : g.filled = true)
    (h : passesGate (loud (windowEnergy w g)) = true) : gateUpdate w g = keepWindow w (windowEnergy w g) g := by
  simp [gateUpdate, hfilled, h]

/-- The two windows have the same relative gate (R126). -/
theorem relGate_eq_ten (w : Win) : Config.relGate w = Config.ten := by cases w <;> rfl

/-- Settles O39. -/
theorem gateUpdateFollowsItsRule : Obligations.GateUpdateFollowsItsRule := by
  intro w g e
  refine ⟨gateUpdate_of_unfilled, gateUpdate_of_not_passes, fun hfilled hpass => ?_⟩
  rw [gateUpdate_of_passes hfilled hpass, keepWindow, relThreshold, relGate_eq_ten]
  rfl

/-! ### Silence (O43) -/

/-- An integrator that has taken nothing but zero powers: `+0.0` in every slot and in the sum, and nothing kept. -/
structure Silent (g : Integrator) : Prop where
  cache_zero : ∀ p ∈ g.cache, p = Config.zero
  sum_zero : g.sum = Config.zero
  none_kept : g.nKept = 0
  kept_zero : g.sumKept = Config.zero
  hist_zero : g.hist = List.replicate Config.nb 0

theorem silent_newIntegrator (w : Win) : Silent (newIntegrator w) where
  cache_zero _ hp := List.eq_of_mem_replicate hp
  sum_zero := rfl
  none_kept := rfl
  kept_zero := rfl
  hist_zero := rfl

theorem Silent.evicted {g : Integrator} (h : Silent g) : evicted g = Config.zero := by
  rw [Machine.evicted, List.getD_eq_getElem?_getD]
  cases hslot : g.cache[g.pos.toNat]? with
  | none => rfl
  | some p => exact h.cache_zero p (List.mem_of_getElem? hslot)

/-- Taking `+0.0` off `+0.0` and putting it back gives `+0.0`. -/
theorem Silent.pushPower {g : Integrator} (h : Silent g) (w : Win) : Silent (pushPower w Config.zero g) where
  cache_zero p hp := (List.mem_or_eq_of_mem_set hp).elim (h.cache_zero p) id
  sum_zero := by
    rw [pushPower_sum, h.sum_zero, h.evicted]
    cases g.filled <;> decide
  none_kept := h.none_kept
  kept_zero := h.kept_zero
  hist_zero := h.hist_zero

theorem Silent.windowEnergy {g : Integrator} (h : Silent g) (w : Win) : windowEnergy w g = Config.zero := by
  rw [Machine.windowEnergy, h.sum_zero]
  cases w <;> decide +kernel

/-- The window energy `+0.0` does not pass the absolute gate, so the gate update does nothing (R131). -/
theorem Silent.gateUpdate {g : Integrator} (h : Silent g) (w : Win) : gateUpdate w g = g :=
  gateUpdate_of_not_passes (passesGate_loud_of_not_pos (by rw [h.windowEnergy w]; decide))

theorem cycleAll_append_singleton (w : Win) (ps : List F64) (p : F64) (g : Integrator) :
    cycleAll w (ps ++ [p]) g = gateUpdate w (pushPower w p (cycleAll w ps g)) := List.foldl_concat ..

theorem silent_cycleAll_zero (w : Win) (n : Nat) :
    Silent (cycleAll w (List.replicate n Config.zero) (newIntegrator w)) := by
  induction n with
  | zero => exact silent_newIntegrator w
  | succ n ih =>
    have hpush := ih.pushPower w
    rw [List.replicate_succ', cycleAll_append_singleton, hpush.gateUpdate w]
    exact hpush

/-- Without a kept window there is no Integrated loudness (R128). -/
theorem integrated_of_none_kept {g : Integrator} (h : g.nKept = 0) : integrated g = none := by
  rw [integrated, if_pos h]

/-- Without a kept window there is no Loudness Range (R129). -/
theorem lraCompute_of_none_kept {g : Integrator} (h : g.nKept = 0) : lraCompute g = none := by
  rw [lraCompute, lraBuckets, if_pos h, Option.map_none]

/-- Settles O43: the integrator stays silent, block after block. -/
theorem silenceIsNeverKept : Obligations.SilenceIsNeverKept := by
  intro w n g
  have h : Silent g := silent_cycleAll_zero w n
  exact ⟨h.none_kept, h.kept_zero, h.hist_zero, integrated_of_none_kept h.none_kept,
    lraCompute_of_none_kept h.none_kept⟩

end Sys2Proof.Machine
end

section
/-! SUPPORT. Rounding keeps the order of exact results (00_scope.md R15), so a subtraction, a multiplication and a
division keep the order of their left operand, infinities included. -/

namespace Sys2Proof.Machine

/-! ### The rounding -/

theorem roundSteps_mono {m n : Nat} (g : Nat) (h : m ≤ n) : roundSteps m g ≤ roundSteps n g := by
  have hdiv : m / g ≤ n / g := Nat.div_le_div_right h
  have hm := Nat.div_add_mod' m g
  have hn := Nat.div_add_mod' n g
  rcases hdiv.lt_or_eq with hlt | heq
  · simp only [roundSteps]
    split <;> split <;> omega
  · rw [heq] at hm
    have hmod : m % g ≤ n % g := by omega
    simp only [roundSteps, heq]
    split <;> split <;> omega

theorem binade_mono {m n : Nat} (d : Nat) (h : m ≤ n) : binade m d ≤ binade n d := by
  simp only [binade, Nat.log2_eq_log_two]
  exact Nat.sub_le_sub_right (Nat.log_mono_right (Nat.div_le_div_right h)) 52

/-- A greater magnitude has a greater encoding: in one binade it has more steps, and a later binade begins where the
one before it ends. -/
theorem roundMag_mono {m n : Nat} (d : Nat) (h : m ≤ n) : roundMag m d ≤ roundMag n d := by
  rw [roundMag_eq, roundMag_eq]
  refine min_le_min_right _ ?_
  rcases (binade_mono d h).lt_or_eq with hlt | heq
  · have hm := binadeSteps_le m d
    have hn := binadeSteps_lo n d
    omega
  · have hsteps : binadeSteps m d ≤ binadeSteps n d := by
      rw [binadeSteps, binadeSteps, heq]
      exact roundSteps_mono _ h
    omega

/-- The order key of `v / d` units rounded: the encoding of the magnitude with the sign of `v`. -/
def roundKey (v : Int) (d : Nat) : Int := if v < 0 then -(roundMag v.natAbs d : Int) else roundMag v.natAbs d

theorem roundKey_mono {v v' : Int} (d : Nat) (h : v ≤ v') : roundKey v d ≤ roundKey v' d := by
  simp only [roundKey]
  split <;> split
  · exact Int.neg_le_neg (Int.ofNat_le.2 (roundMag_mono d (by omega)))
  · omega
  · omega
  · exact Int.ofNat_le.2 (roundMag_mono d (by omega))

theorem orderKey_ofSignMag (neg : Bool) {m : Nat} (h : m < 2 ^ 63) :
    orderKey (ofSignMag neg m) = if neg = true then -(m : Int) else m := by
  rw [orderKey, ofSignMag_sign, ofSignMag_mag neg h]

theorem orderKey_signedZero (neg : Bool) : orderKey (signedZero neg) = 0 := by cases neg <;> decide

theorem orderKey_roundUnits (neg : Bool) (n d : Nat) :
    orderKey (roundUnits neg n d) = roundKey (if neg = true then -(n : Int) else n) d := by
  rw [roundUnits_eq, orderKey_ofSignMag neg (roundMag_lt n d), roundKey]
  have hzero : roundMag 0 d = 0 := by simp [roundMag]
  rcases n.eq_zero_or_pos with rfl | hn
  · cases neg <;> simp [hzero]
  · cases neg <;> simp [hn]

/-! ### The order of the four results -/

theorem signed_natAbs (v : Int) : (if decide (v < 0) = true then -(v.natAbs : Int) else v.natAbs) = v := by
  simp only [decide_eq_true_eq]
  split <;> omega

/-- A sum or difference, from its exact result. -/
theorem orderKey_sum (zeroNeg : Bool) (v : Int) :
    orderKey (if v = 0 then signedZero zeroNeg else roundUnits (decide (v < 0)) v.natAbs 1) = roundKey v 1 := by
  split
  next h => rw [h, orderKey_signedZero]; decide
  next h =>
    rw [orderKey_roundUnits, signed_natAbs]

theorem orderKey_fSub {a b : F64} (ha : isFinite a = true) (hb : isFinite b = true) :
    orderKey (fSub a b) = roundKey (signedUnits a - signedUnits b) 1 := by
  rw [fSub_finite ha hb, orderKey_sum]

theorem orderKey_fMul {a b : F64} (ha : isFinite a = true) (hb : isFinite b = true) :
    orderKey (fMul a b) = roundKey (signedUnits a * signedUnits b) unitsOfOne := by
  rw [fMul_finite ha hb, orderKey_roundUnits, signedUnits_mul]

theorem sign_of_signedUnits_pos {a : F64} (h : 0 < signedUnits a) : a.sign = false := by
  rw [signedUnits] at h
  split at h
  · omega
  next hs => simpa using hs

theorem orderKey_fDiv {a b : F64} (ha : isFinite a = true) (hb : isFinite b = true) (h0 : 0 < signedUnits b) :
    orderKey (fDiv a b) = roundKey (signedUnits a * unitsOfOne) (unitsOf b) := by
  rw [fDiv_finite ha hb (mag_ne_zero_of_signedUnits h0.ne'), orderKey_roundUnits, ← signedUnits_div,
    sign_of_signedUnits_pos h0, if_neg Bool.false_ne_true]

/-! ### The infinities, and the order of the encodings -/

theorem fLe_iff (a b : F64) : fLe a b = true ↔ isNaN a = false ∧ isNaN b = false ∧ orderKey a ≤ orderKey b := by
  simp [fLe, and_assoc]

/-- Every value is the encoding with its sign and its magnitude field. -/
theorem ofSignMag_sign_mag (a : F64) : ofSignMag a.sign a.mag = a := by
  refine congrArg F64.mk (BitVec.eq_of_getLsbD_eq fun i hi => ?_)
  rw [BitVec.getLsbD_append, F64.mag, BitVec.ofNat_toNat, BitVec.setWidth_eq, BitVec.getLsbD_extractLsb']
  rcases (Nat.le_of_lt_succ hi).lt_or_eq with hi | rfl
  · simp [hi]
  · simp [F64.sign]

/-- Every value but a NaN is an infinity or finite. -/
theorem eq_signedInf_or_isFinite {a : F64} (h : isNaN a = false) :
    a = signedInf true ∨ isFinite a = true ∨ a = signedInf false := by
  cases hi : isInf a
  · exact .inr (.inl (isFinite_of_not_isNaN_of_not_isInf h hi))
  · have hmag : a.mag = 2047 * 2 ^ 52 := by
      simp only [isInf, Bool.and_eq_true, beq_iff_eq] at hi
      rw [mag_eq, hi.1, hi.2, Nat.add_zero]
    have ha : a = signedInf a.sign := by
      rw [signedInf_eq, ← hmag, ofSignMag_sign_mag]
    cases hs : a.sign <;> rw [hs] at ha <;> simp [ha]

theorem fLt_of_fLe_of_fLt {a b c : F64} (hab : fLe a b = true) (hbc : fLt b c = true) : fLt a c = true := by
  simp only [fLe, fLt, Bool.and_eq_true, Bool.not_eq_true', decide_eq_true_eq] at *
  exact ⟨⟨hab.1.1, hbc.1.2⟩, hab.2.trans_lt hbc.2⟩

theorem fLe_trans {a b c : F64} (hab : fLe a b = true) (hbc : fLe b c = true) : fLe a c = true := by
  rw [fLe_iff] at *
  exact ⟨hab.1, hbc.2.1, hab.2.2.trans hbc.2.2⟩

theorem signedUnits_le_of_fLe {a b : F64} (h : fLe a b = true) : signedUnits a ≤ signedUnits b :=
  not_lt.1 (mt (orderKey_lt_iff b a).2 (not_lt.2 ((fLe_iff a b).1 h).2.2))

theorem signedInf_true_fLe {a : F64} (h : isNaN a = false) : fLe (signedInf true) a = true := by
  rcases eq_signedInf_or_isFinite h with rfl | hf | rfl
  · decide
  · exact (fLe_iff _ _).2 ⟨isNaN_signedInf _, h, (orderKey_finite hf).1.le⟩
  · decide

theorem fLe_signedInf_false {a : F64} (h : isNaN a = false) : fLe a (signedInf false) = true := by
  rcases eq_signedInf_or_isFinite h with rfl | hf | rfl
  · decide
  · exact (fLe_iff _ _).2 ⟨h, isNaN_signedInf _, (orderKey_finite hf).2.le⟩
  · decide

/-- Of two values in order, the lower is `-Inf`, the upper is `+Inf`, or both are finite. -/
theorem fLe_cases {a b : F64} (h : fLe a b = true) :
    a = signedInf true ∨ b = signedInf false ∨
      (isFinite a = true ∧ isFinite b = true ∧ signedUnits a ≤ signedUnits b) := by
  obtain ⟨ha, hb, hkey⟩ := (fLe_iff a b).1 h
  rcases eq_signedInf_or_isFinite ha with rfl | hfa | rfl
  · exact .inl rfl
  · rcases eq_signedInf_or_isFinite hb with rfl | hfb | rfl
    · exact absurd hkey (not_le.2 (orderKey_finite hfa).1)
    · exact .inr (.inr ⟨hfa, hfb, (fLe_finite hfa hfb).1 h⟩)
    · exact .inr (.inl rfl)
  · rcases eq_signedInf_or_isFinite hb with rfl | hfb | rfl
    · exact absurd hkey (by decide)
    · exact absurd hkey (not_le.2 (orderKey_finite hfb).2)
    · exact .inr (.inl rfl)

/-- A value between two finite ones is finite. -/
theorem isFinite_of_fLe_of_fLe {a b c : F64} (hab : fLe a b = true) (hbc : fLe b c = true) (ha : isFinite a = true)
    (hc : isFinite c = true) : isFinite b = true := by
  rcases fLe_cases hab with rfl | rfl | ⟨-, hb, -⟩
  · exact absurd ha (by decide)
  · rcases fLe_cases hbc with hb | rfl | ⟨hb, -, -⟩
    · exact absurd hb (by decide)
    · exact absurd hc (by decide)
    · exact hb
  · exact hb

/-! ### Operations that keep the order of their left operand -/

/-- A function that leaves the infinities, gives no NaN, and keeps the order of the finite values keeps the order of
all values. -/
theorem fLe_map {f : F64 → F64} (hinf : ∀ neg, f (signedInf neg) = signedInf neg)
    (hnan : ∀ a, isNaN a = false → isNaN (f a) = false)
    (hfin : ∀ a b, isFinite a = true → isFinite b = true → signedUnits a ≤ signedUnits b →
      orderKey (f a) ≤ orderKey (f b)) {a b : F64} (h : fLe a b = true) : fLe (f a) (f b) = true := by
  obtain ⟨ha, hb, -⟩ := (fLe_iff a b).1 h
  rcases fLe_cases h with rfl | rfl | ⟨hfa, hfb, hle⟩
  · rw [hinf]
    exact signedInf_true_fLe (hnan b hb)
  · rw [hinf]
    exact fLe_signedInf_false (hnan a ha)
  · exact (fLe_iff _ _).2 ⟨hnan a ha, hnan b hb, hfin a b hfa hfb hle⟩

@[simp] theorem isInf_signedInf (neg : Bool) : isInf (signedInf neg) = true := by cases neg <;> decide

@[simp] theorem signedInf_sign (neg : Bool) : (signedInf neg).sign = neg := ofSignMag_sign ..

theorem signedInf_mag_ne_zero (neg : Bool) : (signedInf neg).mag ≠ 0 := by cases neg <;> decide

section
variable {c : F64} (hc : isFinite c = true)
include hc

theorem fSub_signedInf (neg : Bool) : fSub (signedInf neg) c = signedInf neg := by
  have hc' : isFinite (fNeg c) = true := by simpa using hc
  simp [fSub, addAs, isNaN_of_finite hc', isInf_of_finite hc', isNaN_signedInf]

theorem fLe_fSub {a b : F64} (h : fLe a b = true) : fLe (fSub a c) (fSub b c) = true :=
  fLe_map (f := (fSub · c)) (fSub_signedInf hc) (fun _ ha => isNaN_fSub_of_finite ha hc)
    (fun a b ha hb hle => by
      rw [orderKey_fSub ha hc, orderKey_fSub hb hc]
      exact roundKey_mono 1 (Int.sub_le_sub_right hle _)) h

variable (hpos : 0 < signedUnits c)
include hpos

theorem fMul_signedInf (neg : Bool) : fMul (signedInf neg) c = signedInf neg := by
  simp [fMul, isNaN_of_finite hc, isNaN_signedInf, signedInf_mag_ne_zero, mag_ne_zero_of_signedUnits hpos.ne',
    sign_of_signedUnits_pos hpos]

theorem fLe_fMul {a b : F64} (h : fLe a b = true) : fLe (fMul a c) (fMul b c) = true :=
  fLe_map (f := (fMul · c)) (fMul_signedInf hc hpos)
    (fun _ ha => isNaN_fMul_of_finite ha hc (mag_ne_zero_of_signedUnits hpos.ne'))
    (fun a b ha hb hle => by
      rw [orderKey_fMul ha hc, orderKey_fMul hb hc]
      exact roundKey_mono _ (Int.mul_le_mul_of_nonneg_right hle hpos.le)) h

theorem fDiv_signedInf (neg : Bool) : fDiv (signedInf neg) c = signedInf neg := by
  simp [fDiv, isNaN_of_finite hc, isInf_of_finite hc, isNaN_signedInf, sign_of_signedUnits_pos hpos]

theorem isNaN_fDiv_of_finite {a : F64} (ha : isNaN a = false) : isNaN (fDiv a c) = false := by
  rcases eq_signedInf_or_isFinite ha with rfl | hfa | rfl
  · rw [fDiv_signedInf hc hpos, isNaN_signedInf]
  · rw [fDiv_finite hfa hc (mag_ne_zero_of_signedUnits hpos.ne'), isNaN_roundUnits]
  · rw [fDiv_signedInf hc hpos, isNaN_signedInf]

theorem fLe_fDiv {a b : F64} (h : fLe a b = true) : fLe (fDiv a c) (fDiv b c) = true :=
  fLe_map (f := (fDiv · c)) (fDiv_signedInf hc hpos) (fun _ ha => isNaN_fDiv_of_finite hc hpos ha)
    (fun a b ha hb hle => by
      rw [orderKey_fDiv ha hc hpos, orderKey_fDiv hb hc hpos]
      exact roundKey_mono _ (Int.mul_le_mul_of_nonneg_right hle (Int.natCast_nonneg _))) h

end

/-! ### The error of a rounding -/

/-- A multiple of the step `g` to which `n` is rounded is within half a step of it. -/
theorem roundSteps_error (n : Nat) {g : Nat} (hg : 0 < g) :
    2 * ((n : Int) - (roundSteps n g * g : Nat)).natAbs ≤ g := by
  have hn := Nat.div_add_mod' n g
  have hlt := Nat.mod_lt n hg
  rcases roundSteps_cases n g with ⟨hs, hr, -⟩ | ⟨hs, hr, -⟩ <;> rw [hs]
  · omega
  · rw [Nat.succ_mul (n / g)]
    omega

/-- A magnitude that ends within binade `k` rounds to a finite value, and is moved by at most half the grid step of that
binade, `2^k` units. -/
theorem roundUnits_error (neg : Bool) {n d k step : Nat} (hd : 0 < d) (hstep : step = 2 ^ k) (hk : k ≤ 2044)
    (h : n < 2 ^ 53 * (d * step)) :
    isFinite (roundUnits neg n d) = true ∧
    2 * ((if neg = true then -(n : Int) else n) - signedUnits (roundUnits neg n d) * d).natAbs ≤ d * step := by
  subst hstep
  have hover : n < overflowUnits * d := by
    refine h.trans_le ?_
    rw [Nat.mul_comm d, ← Nat.mul_assoc, ← Nat.pow_add]
    have hpow : 2 ^ (53 + k) ≤ overflowUnits :=
      (Nat.pow_le_pow_right Nat.two_pos (by omega : 53 + k ≤ 2097)).trans (by decide +kernel)
    exact Nat.mul_le_mul_right d hpow
  have hbinade := Nat.pow_le_pow_right Nat.two_pos (binade_le hd h)
  refine ⟨isFinite_roundUnits hd hover neg, ?_⟩
  rw [natAbs_sub_signedUnits (roundUnits_sign neg n d), unitsOf_roundUnits hd hover]
  calc 2 * ((n : Int) - (binadeSteps n d * 2 ^ binade n d : Nat) * d).natAbs
      = 2 * ((n : Int) - (roundSteps n (d * 2 ^ binade n d) * (d * 2 ^ binade n d) : Nat)).natAbs := by
        rw [binadeSteps]; push_cast; ring_nf
    _ ≤ d * 2 ^ binade n d := roundSteps_error n (Nat.mul_pos hd (Nat.two_pow_pos _))
    _ ≤ d * 2 ^ k := Nat.mul_le_mul_left d hbinade

/-- So is a sum that ends within binade `k`. -/
theorem fAdd_error {a b : F64} (ha : isFinite a = true) (hb : isFinite b = true) {k step : Nat}
    (hstep : step = 2 ^ k) (hk : k ≤ 2044) (h : (signedUnits a + signedUnits b).natAbs < 2 ^ 53 * step) :
    isFinite (fAdd a b) = true ∧ 2 * (signedUnits a + signedUnits b - signedUnits (fAdd a b)).natAbs ≤ step := by
  rw [fAdd_finite ha hb]
  generalize signedUnits a + signedUnits b = v at *
  split
  next hv =>
    have hzero := (signedUnits_eq_zero_iff _).2 (unitsOf_signedZero (a.sign && b.sign))
    refine ⟨by cases a.sign && b.sign <;> decide, ?_⟩
    rw [hv, hzero]
    exact Nat.zero_le _
  next hv =>
    have hround := roundUnits_error (decide (v < 0)) Nat.one_pos hstep hk (by rwa [Nat.one_mul])
    rwa [signed_natAbs, Nat.cast_one, mul_one, Nat.one_mul] at hround

end Sys2Proof.Machine
end

section
/-! SUPPORT. The histogram's buckets (43_gating_histogram.md R122, R123): the quantiser, clause by clause and in order,
and the representative loudness and energy of a bucket. -/

namespace Sys2Proof.Machine

/-! ### The quantiser (O36, O37) -/

/-- `(L - HIST_MIN) * HIST_RES`: how many buckets above the first one a loudness stands (R122). -/
def bucketPosition (l : F64) : F64 := fMul (fSub l Config.histMin) Config.ten

theorem ten_eq_fOfNat : Config.ten = fOfNat 10 := by decide +kernel

theorem fOfNat_histRes : fOfNat Config.histRes = Config.ten := ten_eq_fOfNat.symm

theorem isFinite_histMin : isFinite Config.histMin = true := by decide

theorem isFinite_ten : isFinite Config.ten = true := by decide

theorem signedUnits_ten_pos : 0 < signedUnits Config.ten := by decide +kernel

theorem isNaN_bucketPosition {l : F64} (h : isNaN l = false) : isNaN (bucketPosition l) = false :=
  isNaN_fMul_of_finite (isNaN_fSub_of_finite h isFinite_histMin) isFinite_ten
    (mag_ne_zero_of_signedUnits signedUnits_ten_pos.ne')

theorem bucketPosition_mono {a b : F64} (h : fLe a b = true) : fLe (bucketPosition a) (bucketPosition b) = true :=
  fLe_fMul isFinite_ten signedUnits_ten_pos (fLe_fSub isFinite_histMin h)

/-- NaN and `-Inf` go to bucket 0 (R122). -/
theorem histIdx_of_none {l : F64} (h : isNaN l = true ∨ l = Config.negInf) : histIdx l = 0 := by
  rw [histIdx, if_pos (by simpa using h)]

section
variable {l : F64} (hnan : isNaN l = false) (hinf : l ≠ Config.negInf)
include hnan hinf

theorem histIdx_eq : histIdx l =
    if fLt (bucketPosition l) Config.zero = true then 0
    else if fGe (bucketPosition l) (fOfNat (Config.nb - 1)) = true then Config.nb - 1
    else (fFloor (bucketPosition l)).toNat := by
  rw [histIdx, if_neg (by simp [hnan, hinf]), fOfNat_histRes]
  rfl

theorem histIdx_of_below (h : fLt (bucketPosition l) Config.zero = true) : histIdx l = 0 := by
  rw [histIdx_eq hnan hinf, if_pos h]

variable (hlow : fLt (bucketPosition l) Config.zero = false)
include hlow

theorem histIdx_of_above (h : fGe (bucketPosition l) (fOfNat (Config.nb - 1)) = true) :
    histIdx l = Config.nb - 1 := by
  rw [histIdx_eq hnan hinf, hlow, if_neg Bool.false_ne_true, if_pos h]

theorem histIdx_of_within (h : fGe (bucketPosition l) (fOfNat (Config.nb - 1)) = false) :
    (histIdx l : Int) = fFloor (bucketPosition l) := by
  have htop : isFinite (fOfNat (Config.nb - 1)) = true := isFinite_fOfNat (by decide)
  obtain ⟨hpos, -⟩ := signedUnits_bounds (isNaN_bucketPosition hnan) (by decide) htop hlow h
  rw [histIdx_eq hnan hinf, hlow, if_neg Bool.false_ne_true, h, if_neg Bool.false_ne_true]
  exact Int.toNat_of_nonneg (Int.ediv_nonneg (hpos.trans' (by decide)) (Int.natCast_nonneg _))

end

/-- Settles O36. -/
theorem histIdxFollowsItsRule : Obligations.HistIdxFollowsItsRule := fun l =>
  ⟨Nat.le_of_lt_succ (histIdx_lt l), histIdx_of_none, fun hnan hinf =>
    ⟨histIdx_of_below hnan hinf, histIdx_of_above hnan hinf,
      fun hlow hhigh _ => histIdx_of_within hnan hinf hlow hhigh⟩⟩

theorem fFloor_mono {a b : F64} (h : fLe a b = true) : fFloor a ≤ fFloor b :=
  Int.ediv_le_ediv (Int.natCast_pos.2 unitsOfOne_pos) (signedUnits_le_of_fLe h)

/-- Settles O37: the position keeps the order through both roundings, and so do the two clamps and the floor. -/
theorem histIdxIsMonotone : Obligations.HistIdxIsMonotone := by
  intro a b h
  obtain ⟨hna, hnb, hkey⟩ := (fLe_iff a b).1 h
  by_cases hia : a = Config.negInf
  · rw [histIdx_of_none (.inr hia)]
    exact Nat.zero_le _
  have hib : b ≠ Config.negInf := by
    rintro rfl
    rcases fLe_cases h with ha | hb | ⟨-, hb, -⟩
    · exact hia ha
    · exact absurd hb (by decide)
    · exact absurd hb (by decide)
  have hpos := bucketPosition_mono h
  cases hlow : fLt (bucketPosition a) Config.zero with
  | true =>
    rw [histIdx_of_below hna hia hlow]
    exact Nat.zero_le _
  | false =>
    have hlowb : fLt (bucketPosition b) Config.zero = false :=
      Bool.eq_false_iff.2 fun hb => Bool.eq_false_iff.1 hlow (fLt_of_fLe_of_fLt hpos hb)
    cases hhigh : fGe (bucketPosition b) (fOfNat (Config.nb - 1)) with
    | true =>
      rw [histIdx_of_above hnb hib hlowb hhigh]
      exact Nat.le_of_lt_succ (histIdx_lt a)
    | false =>
      have hhigha : fGe (bucketPosition a) (fOfNat (Config.nb - 1)) = false :=
        Bool.eq_false_iff.2 fun ha => Bool.eq_false_iff.1 hhigh (fLe_trans ha hpos)
      have hwa := histIdx_of_within hna hia hlow hhigha
      have hwb := histIdx_of_within hnb hib hlowb hhigh
      have hfloor := fFloor_mono hpos
      omega

/-! ### The representatives (O38) -/

theorem loudRep_eq (i : Nat) : loudRep i = fAdd (fDiv (fOfNat i) Config.ten) Config.histMin := by
  rw [loudRep, fOfNat_histRes]

/-- The grid step just below 128.0, `2^-46`: no rounding in `LoudRep` moves its result by more than half of it. -/
def loudStep : Nat := 2 ^ 1028

theorem loudStep_eq : loudStep = 2 ^ 1028 := rfl

theorem loudStep_pos : 0 < loudStep := Nat.pos_of_ne_zero (by decide +kernel)

theorem unitsOfOne_eq : unitsOfOne = 2 ^ 46 * loudStep := by
  rw [unitsOfOne, loudStep, ← Nat.pow_add]

theorem signedUnits_histMin : signedUnits Config.histMin = -70 * unitsOfOne := by decide +kernel

theorem fDiv_ten_error {i : Nat} (h : i < 801) : isFinite (fDiv (fOfNat i) Config.ten) = true ∧
    2 * ((i * unitsOfOne : Int) - 10 * signedUnits (fDiv (fOfNat i) Config.ten)).natAbs ≤ 10 * loudStep := by
  have hi : i < 2 ^ 53 := by omega
  have hten : unitsOf Config.ten = 10 * unitsOfOne := by rw [ten_eq_fOfNat, unitsOf_fOfNat (by decide)]
  have hpos := unitsOfOne_pos
  have hdivisor : 0 < 10 * unitsOfOne := Nat.mul_pos (by decide) hpos
  have hbound : i * unitsOfOne * unitsOfOne < 2 ^ 53 * (10 * unitsOfOne * loudStep) := by
    have : i * unitsOfOne < 1280 * unitsOfOne := Nat.mul_lt_mul_of_pos_right (by omega) hpos
    calc i * unitsOfOne * unitsOfOne < 1280 * unitsOfOne * unitsOfOne := Nat.mul_lt_mul_of_pos_right this hpos
      _ = 2 ^ 53 * (10 * unitsOfOne * loudStep) := by
        nth_rw 1 [unitsOfOne_eq]
        ring
  obtain ⟨hfin, herr⟩ := roundUnits_error false hdivisor loudStep_eq (by decide) hbound
  rw [fDiv_finite (isFinite_fOfNat hi) isFinite_ten (mag_ne_zero_of_signedUnits signedUnits_ten_pos.ne'), fOfNat_sign,
    sign_of_signedUnits_pos signedUnits_ten_pos, bne_self_eq_false, unitsOf_fOfNat hi, hten]
  refine ⟨hfin, Nat.le_of_mul_le_mul_left ?_ hpos⟩
  generalize signedUnits (roundUnits false (i * unitsOfOne * unitsOfOne) (10 * unitsOfOne)) = q at herr ⊢
  calc unitsOfOne * (2 * ((i * unitsOfOne : Int) - 10 * q).natAbs)
      = 2 * (unitsOfOne * ((i * unitsOfOne : Int) - 10 * q)).natAbs := by
        rw [Int.natAbs_mul, Int.natAbs_natCast, Nat.mul_left_comm]
    _ = 2 * ((i * unitsOfOne * unitsOfOne : Nat) - q * (10 * unitsOfOne : Nat)).natAbs := by push_cast; ring_nf
    _ ≤ unitsOfOne * (10 * loudStep) := by
        rw [if_neg Bool.false_ne_true] at herr
        exact herr.trans_eq (by ring)

/-- `LoudRep(i)` is within one step of `i / 10 - 70`: half a step for the division, half for the addition. -/
theorem loudRep_error {i : Nat} (h : i < 801) : isFinite (loudRep i) = true ∧
    ((i - 700 : Int) * unitsOfOne - 10 * signedUnits (loudRep i)).natAbs ≤ 10 * loudStep := by
  obtain ⟨hfin, hdiv⟩ := fDiv_ten_error h
  have hsum := fAdd_error hfin isFinite_histMin loudStep_eq (by decide)
  rw [← loudRep_eq, signedUnits_histMin] at hsum
  rw [sub_mul]
  have hi : (i * unitsOfOne : Int) ≤ 800 * unitsOfOne :=
    Int.mul_le_mul_of_nonneg_right (by omega) (Int.natCast_nonneg _)
  have hi0 : 0 ≤ (i * unitsOfOne : Int) := mul_nonneg (Int.natCast_nonneg _) (Int.natCast_nonneg _)
  generalize (i * unitsOfOne : Int) = x at *
  have hU := unitsOfOne_eq
  have hstep := loudStep_pos
  obtain ⟨hfin', hadd⟩ := hsum (by omega)
  exact ⟨hfin', by omega⟩

/-- The buckets stand 0.1 apart, far more than the two roundings can move them. -/
theorem loudRep_lt {i j : Nat} (hij : i < j) (hj : j < 801) : fLt (loudRep i) (loudRep j) = true := by
  obtain ⟨hfi, hi⟩ := loudRep_error (hij.trans hj)
  obtain ⟨hfj, hj⟩ := loudRep_error hj
  rw [fLt_finite hfi hfj]
  have hgap : (i - 700 : Int) * unitsOfOne + unitsOfOne ≤ (j - 700 : Int) * unitsOfOne := by
    rw [← add_one_mul]
    exact Int.mul_le_mul_of_nonneg_right (by omega) (Int.natCast_nonneg _)
  have hU := unitsOfOne_eq
  have hstep := loudStep_pos
  omega

theorem fLe_of_fLt {a b : F64} (h : fLt a b = true) : fLe a b = true := by
  simp only [fLe, fLt, Bool.and_eq_true, Bool.not_eq_true', decide_eq_true_eq] at *
  exact ⟨h.1, h.2.le⟩

theorem fLe_self {a : F64} (h : isNaN a = false) : fLe a a = true := (fLe_iff a a).2 ⟨h, h, le_rfl⟩

theorem loudRep_mono {i j : Nat} (hij : i ≤ j) (hj : j < 801) : fLe (loudRep i) (loudRep j) = true := by
  rcases hij.lt_or_eq with hlt | rfl
  · exact fLe_of_fLt (loudRep_lt hlt hj)
  · exact fLe_self (isNaN_of_finite (loudRep_error hj).1)

/-- The exponent of `EnergyRep(i)`: `(LoudRep(i) - LOUD_OFS) / 10.0` (R123). -/
def energyExponent (i : Nat) : F64 := fDiv (fSub (loudRep i) Config.loudOfs) Config.ten

theorem energyRep_eq (i : Nat) : energyRep i = Config.pow10 (energyExponent i) := rfl

theorem energyExponent_mono {i j : Nat} (hij : i ≤ j) (hj : j < 801) :
    fLe (energyExponent i) (energyExponent j) = true :=
  fLe_fDiv isFinite_ten signedUnits_ten_pos (fLe_fSub (by decide) (loudRep_mono hij hj))

/-- The exponents of all buckets lie between those of the first and of the last, which are finite. -/
theorem isFinite_energyExponent {i : Nat} (h : i < 801) : isFinite (energyExponent i) = true :=
  isFinite_of_fLe_of_fLe (energyExponent_mono (Nat.zero_le i) h) (energyExponent_mono (Nat.le_of_lt_succ h) (by decide))
    (by decide +kernel) (by decide +kernel)

theorem energyRep_mono {i j : Nat} (hij : i ≤ j) (hj : j < 801) : fLe (energyRep i) (energyRep j) = true :=
  Config.pow10_mono (isFinite_energyExponent (hij.trans_lt hj)) (isFinite_energyExponent hj)
    (energyExponent_mono hij hj)

/-- Settles O38. -/
theorem loudRepStrictlyIncreasing : Obligations.LoudRepStrictlyIncreasing :=
  ⟨fun i => ⟨loudRep_eq i, energyRep_eq i⟩, by decide +kernel,
    fun _ _ hij hj => ⟨loudRep_lt hij hj, energyRep_mono hij.le hj⟩⟩

end Sys2Proof.Machine
end

section
/-! SUPPORT. The gated histogram (43_gating_histogram.md R128 to R130): the second pass of Integrated as sums over the
occupied buckets, and the percentile buckets of the Loudness Range. -/

namespace Sys2Proof.Machine

/-! ### The second pass of Integrated (O40) -/

/-- The buckets from `i` up, to the end of the histogram, whose count is not 0, in ascending order. -/
def occupiedFrom (hist : List Nat) (i : Nat) : List Nat :=
  (List.range' i (hist.length - i)).filter (fun k => decide (0 < hist.getD k 0))

theorem occupiedFrom_eq_filter_range {hist : List Nat} {i : Nat} (h : i ≤ hist.length) :
    occupiedFrom hist i =
      (List.range hist.length).filter (fun k => decide (i ≤ k) && decide (0 < hist.getD k 0)) := by
  have hsplit : List.range hist.length = List.range i ++ List.range' i (hist.length - i) := by
    have happend := List.range'_append_1 (s := 0) (m := i) (n := hist.length - i)
    rw [Nat.zero_add, Nat.add_sub_cancel' h] at happend
    rw [List.range_eq_range', List.range_eq_range', happend]
  have hbelow : (List.range i).filter (fun k => decide (i ≤ k) && decide (0 < hist.getD k 0)) = [] := by
    simp only [List.filter_eq_nil_iff, List.mem_range]
    intro k hk
    simp [hk]
  rw [hsplit, List.filter_append, hbelow, List.nil_append]
  refine List.filter_congr fun k hk => ?_
  simp [(List.mem_range'_1.1 hk).1]

theorem occupiedFrom_of_length_le {hist : List Nat} {i : Nat} (h : hist.length ≤ i) : occupiedFrom hist i = [] := by
  rw [occupiedFrom, Nat.sub_eq_zero_of_le h]
  rfl

theorem occupiedFrom_of_lt {hist : List Nat} {i : Nat} (h : i < hist.length) :
    occupiedFrom hist i =
      if 0 < hist.getD i 0 then i :: occupiedFrom hist (i + 1) else occupiedFrom hist (i + 1) := by
  rw [occupiedFrom, occupiedFrom, show hist.length - i = hist.length - (i + 1) + 1 by omega, List.range'_succ,
    List.filter_cons]
  simp

/-- The second pass is two folds over the occupied buckets. -/
theorem gatedSums_drop (hist : List Nat) (i cn : Nat) (es : F64) :
    gatedSums i (hist.drop i) cn es =
      ((occupiedFrom hist i).foldl (fun n k => n + hist.getD k 0) cn,
        (occupiedFrom hist i).foldl (fun e k => fAdd e (fMul (fOfNat (hist.getD k 0)) (energyRep k))) es) := by
  induction hs : hist.drop i generalizing i cn es with
  | nil =>
    rw [occupiedFrom_of_length_le (List.drop_eq_nil_iff.1 hs)]
    rfl
  | cons h hs' ih =>
    have hlt : i < hist.length := by
      by_contra hge
      simp [List.drop_eq_nil_of_le (not_lt.1 hge)] at hs
    obtain ⟨hhead, htail⟩ := List.cons.inj (hs.symm.trans (List.drop_eq_getElem_cons hlt))
    have hcount : hist.getD i 0 = h := by rw [hhead, List.getD_eq_getElem _ _ hlt]
    rw [gatedSums, occupiedFrom_of_lt hlt, hcount]
    split
    · rw [ih _ _ _ htail.symm, List.foldl_cons, List.foldl_cons, hcount]
    · exact ih _ _ _ htail.symm

/-- Settles O40. -/
theorem integratedIsGatedMean : Obligations.IntegratedIsGatedMean := by
  intro g hlen above cn es
  have hfrom := histIdx_lt g.relThr
  have hsums := gatedSums_drop g.hist (histIdx g.relThr) 0 Config.zero
  rw [occupiedFrom_eq_filter_range (by omega), hlen] at hsums
  change gatedSums _ _ _ _ = (cn, es) at hsums
  by_cases hkept : g.nKept = 0
  · rw [integrated_of_none_kept hkept, if_pos (.inl hkept)]
  · simp only [integrated, if_neg hkept, hsums]
    by_cases hcn : cn = 0
    · rw [if_pos hcn, if_pos (.inr hcn)]
    · rw [if_neg hcn, if_neg (not_or.2 ⟨hkept, hcn⟩)]

/-! ### The percentile buckets (O41) -/

/-- Bucket `k` of the counts from bucket `i` up, `c` counts before them, is the first at which the cumulative count
reaches `pct` percent of `n` (R129); it is occupied. -/
structure IsPercentile (pct n i : Nat) (counts : List Nat) (c k : Nat) : Prop where
  from_le : i ≤ k
  within : k - i < counts.length
  occupied : 0 < counts.getD (k - i) 0
  reached : pct * n ≤ 100 * (c + (counts.take (k + 1 - i)).sum)
  first : ∀ j, i ≤ j → j < k → 100 * (c + (counts.take (j + 1 - i)).sum) < pct * n

/-- A percentile not reached before bucket `i` and reached over all counts is found. -/
theorem exists_isPercentile {pct n i c : Nat} {counts : List Nat} (hbefore : 100 * c < pct * n)
    (hall : pct * n ≤ 100 * (c + counts.sum)) :
    ∃ k, percentile pct n i counts c = some k ∧ IsPercentile pct n i counts c k := by
  induction counts generalizing i c with
  | nil =>
    rw [List.sum_nil, Nat.add_zero] at hall
    omega
  | cons h hs ih =>
    rw [percentile]
    split
    next hreached =>
      refine ⟨i, rfl, le_rfl, by simp, ?_, by simpa using hreached, fun j hj hji => absurd hj (not_le.2 hji)⟩
      rw [Nat.sub_self, List.getD_cons_zero]
      omega
    next hnot =>
      obtain ⟨k, hk, hp⟩ := ih (i := i + 1) (c := c + h) (not_le.1 hnot) (by simpa [Nat.add_assoc] using hall)
      have hik := hp.from_le
      have hsub : k - i = k - (i + 1) + 1 := by omega
      refine ⟨k, hk, by omega, ?_, ?_, ?_, fun j hij hjk => ?_⟩
      · have := hp.within
        rw [List.length_cons]
        omega
      · rw [hsub, List.getD_cons_succ]
        exact hp.occupied
      · have := hp.reached
        rw [show k + 1 - i = k + 1 - (i + 1) + 1 by omega, List.take_succ_cons, List.sum_cons, ← Nat.add_assoc]
        exact this
      · rw [show j + 1 - i = j + 1 - (i + 1) + 1 by omega, List.take_succ_cons, List.sum_cons, ← Nat.add_assoc]
        rcases hij.lt_or_eq with hlt | rfl
        · exact hp.first j hlt hjk
        · simpa using not_le.1 hnot

/-- The counts of the gated histogram: those from the bucket of the threshold up. -/
def gatedCounts (g : Integrator) : List Nat := g.hist.drop (histIdx g.relThr)

/-- Bucket `k` is the `pct` percentile of the gated histogram. -/
def IsGatedPercentile (pct : Nat) (g : Integrator) (k : Nat) : Prop :=
  IsPercentile pct (gatedCounts g).sum (histIdx g.relThr) (gatedCounts g) 0 k

theorem exists_isGatedPercentile {pct : Nat} {g : Integrator} (hpct : 0 < pct ∧ pct ≤ 100)
    (hsum : (gatedCounts g).sum ≠ 0) :
    ∃ k, percentile pct (gatedCounts g).sum (histIdx g.relThr) (gatedCounts g) 0 = some k ∧
      IsGatedPercentile pct g k := by
  refine exists_isPercentile (Nat.mul_pos hpct.1 (Nat.pos_of_ne_zero hsum)) ?_
  rw [Nat.zero_add]
  exact Nat.mul_le_mul_right _ hpct.2

theorem lraBuckets_of_none {g : Integrator} (h : g.nKept = 0 ∨ (gatedCounts g).sum = 0) : lraBuckets g = none := by
  rcases h with h | h
  · rw [lraBuckets, if_pos h]
  · rw [gatedCounts] at h
    simp [lraBuckets, h]

/-- With a kept window and an occupied gated bucket, both percentiles are found. -/
theorem lraBuckets_of_some {g : Integrator} (h : ¬ (g.nKept = 0 ∨ (gatedCounts g).sum = 0)) :
    ∃ lo hi, lraBuckets g = some (lo, hi) ∧ IsGatedPercentile Config.lraLoPct g lo ∧
      IsGatedPercentile Config.lraHiPct g hi := by
  obtain ⟨hkept, hsum⟩ := not_or.1 h
  obtain ⟨lo, hlo, hplo⟩ := exists_isGatedPercentile (pct := Config.lraLoPct) (by decide) hsum
  obtain ⟨hi, hhi, hphi⟩ := exists_isGatedPercentile (pct := Config.lraHiPct) (by decide) hsum
  refine ⟨lo, hi, ?_, hplo, hphi⟩
  rw [gatedCounts] at hsum hlo hhi
  simp [lraBuckets, hkept, hsum, hlo, hhi]

theorem isGatedPercentile_of_lraBuckets {g : Integrator} {lo hi : Nat} (h : lraBuckets g = some (lo, hi)) :
    IsGatedPercentile Config.lraLoPct g lo ∧ IsGatedPercentile Config.lraHiPct g hi := by
  by_cases hnone : g.nKept = 0 ∨ (gatedCounts g).sum = 0
  · simp [lraBuckets_of_none hnone] at h
  · obtain ⟨lo', hi', hsome, hplo, hphi⟩ := lraBuckets_of_some hnone
    obtain ⟨rfl, rfl⟩ : lo' = lo ∧ hi' = hi := by simpa [hsome] using h
    exact ⟨hplo, hphi⟩

theorem lraBuckets_eq_none_iff (g : Integrator) : lraBuckets g = none ↔ g.nKept = 0 ∨ (gatedCounts g).sum = 0 := by
  refine ⟨fun h => ?_, lraBuckets_of_none⟩
  by_contra hsome
  obtain ⟨lo, hi, hl, -⟩ := lraBuckets_of_some hsome
  simp [hl] at h

theorem IsGatedPercentile.occupied_bucket {pct k : Nat} {g : Integrator} (h : IsGatedPercentile pct g k) :
    0 < g.hist.getD k 0 := by
  have hocc := h.occupied
  rwa [gatedCounts, List.getD_eq_getElem?_getD, List.getElem?_drop, Nat.add_sub_cancel' h.from_le,
    ← List.getD_eq_getElem?_getD] at hocc

theorem IsGatedPercentile.lt_length {pct k : Nat} {g : Integrator} (h : IsGatedPercentile pct g k) :
    k < g.hist.length := by
  have hfrom := h.from_le
  have hwithin := h.within
  rw [gatedCounts, List.length_drop] at hwithin
  omega

/-- A greater percentage is not reached earlier. -/
theorem IsGatedPercentile.le {p q k k' : Nat} {g : Integrator} (hpq : p ≤ q) (h : IsGatedPercentile p g k)
    (h' : IsGatedPercentile q g k') : k ≤ k' := by
  by_contra hlt
  have hfirst := h.first k' h'.from_le (not_le.1 hlt)
  have hreached := h'.reached
  have hmul := Nat.mul_le_mul_right (gatedCounts g).sum hpq
  omega

/-- Settles O41. -/
theorem percentileBucketsFollowTheirRule : Obligations.PercentileBucketsFollowTheirRule := by
  intro g hlen base upTo n
  refine ⟨rfl, lraBuckets_eq_none_iff g, fun lo hi h => ?_⟩
  obtain ⟨hlo, hhi⟩ := isGatedPercentile_of_lraBuckets h
  have hreachedLo := hlo.reached
  have hreachedHi := hhi.reached
  have hfirstLo := hlo.first
  have hfirstHi := hhi.first
  simp only [Nat.zero_add] at hreachedLo hreachedHi hfirstLo hfirstHi
  exact ⟨hlo.from_le, hlo.le (by decide) hhi, hhi.lt_length.trans_eq hlen, hlo.occupied_bucket, hhi.occupied_bucket,
    hreachedLo, hfirstLo, hreachedHi, hfirstHi⟩

/-! ### The sign of the Loudness Range (O42) -/

theorem fSub_self {a : F64} (h : isFinite a = true) : fSub a a = Config.zero := by
  rw [fSub_finite h h, if_pos (sub_self _), Bool.and_not_self]
  decide

/-- The difference of two different values is never rounded to zero. -/
theorem fSub_ne_zero_of_fLt {a b : F64} (ha : isFinite a = true) (hb : isFinite b = true) (h : fLt a b = true) :
    fSub b a ≠ Config.zero := by
  intro hzero
  have hkey := orderKey_fSub hb ha
  have hone : roundKey 1 1 ≤ roundKey (signedUnits b - signedUnits a) 1 :=
    roundKey_mono 1 (by have := (fLt_finite ha hb).1 h; omega)
  rw [hzero] at hkey
  rw [← hkey] at hone
  exact absurd hone (by decide +kernel)

/-- Settles O42: the bounds are representatives of two buckets in order, and the subtraction of the low one keeps that
order. -/
theorem lraIsNonNegative : Obligations.LraIsNonNegative := by
  intro g d lo hi hlen h
  obtain ⟨⟨i, j⟩, hbuckets, hval⟩ := Option.map_eq_some_iff.1 h
  obtain ⟨rfl, rfl, rfl⟩ : fSub (loudRep j) (loudRep i) = d ∧ loudRep i = lo ∧ loudRep j = hi := by
    simpa using hval
  obtain ⟨hlo, hhi⟩ := isGatedPercentile_of_lraBuckets hbuckets
  have hij : i ≤ j := hlo.le (by decide) hhi
  have hj : j < 801 := hhi.lt_length.trans_eq hlen
  have hfini := (loudRep_error (hij.trans_lt hj)).1
  have hfinj := (loudRep_error hj).1
  constructor
  · rw [← fSub_self hfini]
    exact fLe_fSub hfini (loudRep_mono hij hj)
  · constructor
    · intro hzero
      rcases hij.lt_or_eq with hlt | rfl
      · exact absurd hzero (fSub_ne_zero_of_fLt hfini hfinj (loudRep_lt hlt hj))
      · rfl
    · intro heq
      rw [heq, fSub_self hfinj]

end Sys2Proof.Machine
end

section
/-! SUPPORT. The commands of the Peak Detector (44_peak.md R144, R146, R147): OSFRAME and OSFAIL check by check, and a
peak in dBFS. -/

namespace Sys2Proof.Machine

/-! ### A peak in dBFS (O47) -/

theorem peakDb_of_pos {p : F64} (h : fGt p Config.zero = true) :
    peakDb p = fMul Config.twenty (Config.log10 p) := by
  rw [peakDb, if_pos h]

theorem peakDb_of_not_pos {p : F64} (h : fGt p Config.zero = false) : peakDb p = Config.negInf := by
  rw [peakDb, if_neg (Bool.eq_false_iff.1 h)]

/-- Full scale is 0 dBFS: `LOG10(1.0)` is `+0.0` (R12). -/
theorem peakDb_one : peakDb Config.one = Config.zero := by
  rw [peakDb_of_pos (by decide), Config.log10_one]
  decide +kernel

/-- Settles O47. -/
theorem peakDbFollowsItsRule : Obligations.PeakDbFollowsItsRule :=
  ⟨fun _ h => peakDb_of_pos h, fun _ h => peakDb_of_not_pos h, peakDb_one⟩

/-! ### The checks of a frame -/

theorem allFinite_iff {xs : List F64} : allFinite xs = true ↔ ∀ x ∈ xs, isFinite x = true := List.all_eq_true

theorem checkFrame_of_length_ne {xs : List F64} {r : Session} (s k : State) (h : xs.length ≠ r.nch.toNat) :
    checkFrame xs r s k = raise .eIllegal s := by
  rw [checkFrame, if_pos h]

theorem checkFrame_of_not_finite {xs : List F64} {r : Session} (s k : State) (h : xs.length = r.nch.toNat)
    (hx : ∃ x ∈ xs, isFinite x = false) : checkFrame xs r s k = raise .eData s := by
  have hall : allFinite xs = false := by simpa [allFinite] using hx
  rw [checkFrame, if_neg (not_not.2 h), hall]
  rfl

/-! ### OSFRAME (O27) -/

/-- A header whose only fields are its opcode and the count of its samples (R66, R71). -/
theorem headerWord_of_length (op : BitVec 8) {n : Nat} (hn : n ≤ 255) :
    headerWord op 0 (BitVec.ofNat 8 n) false = BitVec.ofNat 64 (op.toNat * 2 ^ 56 + n * 2 ^ 40) := by
  have hop := op.isLt
  refine BitVec.eq_of_toNat_eq ?_
  simp only [headerWord, toNat_append_eq, BitVec.toNat_ofBool, Bool.toNat_false, BitVec.ofNat_eq_ofNat,
    BitVec.toNat_ofNat]
  omega

theorem tpActive_iff (r : Session) : tpActive r = true ↔ r.tpEn = true ∧ r.tpFail = false := by
  simp [tpActive]

/-- OSFRAME in a live session: the checks of a frame, then the true peaks when their path runs (R144). -/
theorem exec_osframe_live {s : State} {ph : Phase} {r : Session} (ys : List F64) (hs : s.facade = .active ph r)
    (hp : ph ≠ .closed) : exec (.osframe ys) s = .next (checkFrame ys r s
      (respondOk (if tpActive r then s.setFacade (.active ph (foldTruePeaks ys r)) else s))) :=
  congrArg _ (whenLive_live _ hs hp)

/-- Settles O27: the refusals check by check, and `foldTruePeaks` when the true-peak path runs. -/
theorem osframeFollowsItsRule : Obligations.OsframeFollowsItsRule := by
  refine ⟨fun ys hlen => congrArg (· :: _) (headerWord_of_length 3 hlen),
    fun s ys hs => congrArg _ (whenLive_uninitialized _ hs), fun s r ys hs => congrArg _ (whenLive_closed _ hs),
    fun s ph r ys hs hp => ?_⟩
  rw [exec_osframe_live ys hs hp]
  refine ⟨fun hne => congrArg _ (checkFrame_of_length_ne _ _ hne),
    fun hlen hbad => congrArg _ (checkFrame_of_not_finite _ _ hlen hbad), fun hlen hfin => ?_⟩
  rw [checkFrame_ok _ _ hlen (allFinite_iff.2 hfin)]
  by_cases hactive : tpActive r = true
  · rw [if_pos hactive, if_pos ((tpActive_iff r).1 hactive)]
    rfl
  · rw [if_neg hactive, if_neg (mt (tpActive_iff r).2 hactive)]
    rfl

/-! ### OSFAIL (O28) -/

/-- With `TP_FAIL` set no true peak is published (R146, R148). -/
theorem publish_of_tpFail {r : Session} (h : r.tpFail = true) :
    (publish r).snap.tpG = none ∧ (publish r).snap.tp = List.replicate r.chans.length none := by
  have hvalid : tpValid r = false := by simp [tpValid, h]
  simp [snapshotOf, hvalid]

/-- STATUS bit 7 is `TP_FAIL` (R33). -/
theorem statusWord_tpFail (ph : Phase) (r : Session) : (statusWord (.active ph r)).getLsbD 7 = r.tpFail := by
  obtain ⟨-, -, -, -, hfail, -⟩ := packStatus_flags r.osSeen r.seen r.int1.filled r.int0.filled r.tpFail r.dualMono
    r.tpEn r.spEn (Facade.active ph r).st
  exact hfail

/-- OSFAIL's effect as one write: with true peak disabled it writes the record that stands. -/
theorem osfail_effect {s : State} {ph : Phase} {r : Session} (hs : s.facade = .active ph r) :
    (if r.tpEn then s.setFacade (.active ph (markFailed r)) else s) =
      s.setFacade (.active ph { r with tpFail := r.tpFail || r.tpEn }) := by
  by_cases htp : r.tpEn = true
  · have hflag : (r.tpFail || r.tpEn) = true := by rw [htp, Bool.or_true]
    rw [if_pos htp, hflag]
    rfl
  · have hflag : (r.tpFail || r.tpEn) = r.tpFail := by rw [Bool.eq_false_iff.2 htp, Bool.or_false]
    rw [if_neg htp, hflag, ← hs]
    rfl

/-- Settles O28. -/
theorem osfailFollowsItsRule : Obligations.OsfailFollowsItsRule := by
  refine ⟨by decide, fun r hfail => ?_, fun s hs => congrArg _ (whenLive_uninitialized _ hs),
    fun s r hs => congrArg _ (whenLive_closed _ hs), fun s ph r hs hp => ?_⟩
  · obtain ⟨hglobal, hchans⟩ := publish_of_tpFail hfail
    exact ⟨hglobal, hchans, by simp [tpActive, hfail], fun ph => (statusWord_tpFail ph r).trans hfail⟩
  · exact congrArg _ ((whenLive_live _ hs hp).trans (congrArg respondOk (osfail_effect hs)))

end Sys2Proof.Machine
end

section
/-! SUPPORT. The peaks of a run (44_peak.md R140, R141, R144, R149): the running maximum of a list of samples is their
greatest magnitude, and the peak registers of a channel are the running maxima of what a run delivers to it. -/

namespace Sys2Proof.Machine

/-! ### The running maximum of a list (O44) -/

/-- A running maximum is where it began or one of the values that raised it. -/
theorem raiseBy_eq_or_mem (ps : List F64) (g : F64) : raiseBy ps g = g ∨ raiseBy ps g ∈ ps := by
  induction ps generalizing g with
  | nil => exact .inl rfl
  | cons p ps ih =>
    rw [raiseBy_cons]
    rcases ih (raisePeak p g) with h | h
    · rw [h]
      exact (raisePeak_eq_or p g).symm.imp_right fun hp => List.mem_cons.2 (.inl hp)
    · exact .inr (List.mem_cons_of_mem p h)

theorem PeakOk.fLe_raisePeak_left {a p : F64} (ha : PeakOk a) (hp : PeakOk p) :
    fLe a (Machine.raisePeak a p) = true := by
  rw [ha.fLe_iff (ha.raisePeak hp), ha.raisePeak_mag hp]
  exact le_max_left _ _

/-- Every value that raised a running maximum is at most that maximum: its raise can be taken as the last one. -/
theorem PeakOk.fLe_raiseBy_of_mem {g p : F64} (hg : PeakOk g) {ps : List F64} (hps : ∀ q ∈ ps, PeakOk q)
    (hp : p ∈ ps) : fLe p (Machine.raiseBy ps g) = true := by
  induction ps generalizing g with
  | nil => cases hp
  | cons q ps ih =>
    obtain ⟨hq, hrest⟩ := List.forall_mem_cons.1 hps
    rw [raiseBy_cons]
    rcases List.mem_cons.1 hp with rfl | hp
    · rw [raiseBy_raisePeak hq hg hrest]
      exact hq.fLe_raisePeak_left (hg.raiseBy hrest)
    · exact ih (hq.raisePeak hg) hrest hp

theorem peakOk_map_fAbs {xs : List F64} (hx : ∀ x ∈ xs, isFinite x = true) : ∀ p ∈ xs.map fAbs, PeakOk p :=
  List.forall_mem_map.2 fun x hm => peakOk_fAbs (hx x hm)

/-- The running maximum of finite samples from `+0.0` is their greatest magnitude (R140, R141). -/
theorem isPeakOf_raiseAll {xs : List F64} (hx : ∀ x ∈ xs, isFinite x = true) :
    IsPeakOf (raiseAll xs Config.zero) xs := by
  rw [raiseAll_eq]
  refine ⟨fun x hm => peakOk_zero.fLe_raiseBy_of_mem (peakOk_map_fAbs hx) (List.mem_map_of_mem hm), ?_⟩
  refine (raiseBy_eq_or_mem (xs.map fAbs) Config.zero).imp_right fun hmem => ?_
  obtain ⟨x, hm, heq⟩ := List.mem_map.1 hmem
  exact ⟨x, hm, heq.symm⟩

/-- Settles O44. -/
theorem peakIsTheGreatestMagnitude : Obligations.PeakIsTheGreatestMagnitude := fun _ hx => isPeakOf_raiseAll hx

/-! ### More samples, a greater peak (O45, the two lists) -/

/-- The greatest magnitude of some of the samples is at most a running maximum of them all. -/
theorem IsPeakOf.fLe_raiseAll {p : F64} {xs ys : List F64} (h : IsPeakOf p xs) (hy : ∀ y ∈ ys, isFinite y = true)
    (hsub : ∀ x ∈ xs, x ∈ ys) : fLe p (raiseAll ys Config.zero) = true := by
  obtain ⟨-, rfl | ⟨x, hm, rfl⟩⟩ := h
  · exact peakOk_zero.fLe_raiseAll (allFinite_iff.2 hy)
  · exact (isPeakOf_raiseAll hy).1 x (hsub x hm)

theorem raiseAll_append (xs ys : List F64) (g : F64) : raiseAll (xs ++ ys) g = raiseAll ys (raiseAll xs g) :=
  List.foldl_append

/-- A sample peak raised by raw samples, which it follows only when enabled (`SP_EN`, R141). -/
def raiseWhen (en : Bool) (xs : List F64) (g : F64) : F64 := if en then raiseAll xs g else g

@[simp] theorem raiseWhen_true (xs : List F64) (g : F64) : raiseWhen true xs g = raiseAll xs g := rfl
@[simp] theorem raiseWhen_false (xs : List F64) (g : F64) : raiseWhen false xs g = g := rfl

theorem raiseWhen_nil (en : Bool) (g : F64) : raiseWhen en [] g = g := by cases en <;> rfl

theorem raiseWhen_append (en : Bool) (xs ys : List F64) (g : F64) :
    raiseWhen en (xs ++ ys) g = raiseWhen en ys (raiseWhen en xs g) := by
  cases en
  · rfl
  · exact raiseAll_append xs ys g

/-! ### What a run delivers -/

theorem isFinite_of_deliveredTo {nch k : Nat} {xs : List F64} {x : F64} (h : deliveredTo nch k xs = some x) :
    isFinite x = true := by
  unfold deliveredTo at h
  split at h
  case isTrue hok => exact allFinite_iff.1 hok.2 x (List.mem_of_getElem? h)
  case isFalse => cases h

theorem isFinite_of_mem_rawSamples {nch k : Nat} {is : List Instr} : ∀ x ∈ rawSamples nch k is, isFinite x = true := by
  intro x hx
  obtain ⟨i, -, hi⟩ := List.mem_filterMap.1 hx
  cases i with
  | frame xs => exact isFinite_of_deliveredTo hi
  | _ => cases hi

theorem isFinite_of_mem_oversampledSamples {nch k : Nat} {is : List Instr} :
    ∀ y ∈ oversampledSamples nch k is, isFinite y = true := by
  intro y hy
  obtain ⟨i, -, hi⟩ := List.mem_filterMap.1 hy
  cases i with
  | osframe ys => exact isFinite_of_deliveredTo hi
  | _ => cases hi

theorem rawSamples_cons (nch k : Nat) (i : Instr) (is : List Instr) :
    rawSamples nch k (i :: is) = rawSamples nch k [i] ++ rawSamples nch k is :=
  List.filterMap_append (l := [i])

theorem oversampledSamples_cons (nch k : Nat) (i : Instr) (is : List Instr) :
    oversampledSamples nch k (i :: is) = oversampledSamples nch k [i] ++ oversampledSamples nch k is :=
  List.filterMap_append (l := [i])

theorem rawSamples_frame (nch k : Nat) (xs : List F64) :
    rawSamples nch k [.frame xs] = (deliveredTo nch k xs).toList := by
  simp only [rawSamples, List.filterMap_cons, List.filterMap_nil]
  cases deliveredTo nch k xs <;> rfl

theorem oversampledSamples_osframe (nch k : Nat) (ys : List F64) :
    oversampledSamples nch k [.osframe ys] = (deliveredTo nch k ys).toList := by
  simp only [oversampledSamples, List.filterMap_cons, List.filterMap_nil]
  cases deliveredTo nch k ys <;> rfl

/-- A frame of the wrong length delivers nothing. -/
theorem deliveredTo_of_length_ne {nch k : Nat} {xs : List F64} (h : xs.length ≠ nch) : deliveredTo nch k xs = none :=
  if_neg fun hok => h hok.1

/-- A frame with a sample that is not finite delivers nothing. -/
theorem deliveredTo_of_not_finite {nch k : Nat} {xs : List F64} (h : allFinite xs = false) :
    deliveredTo nch k xs = none :=
  if_neg fun hok => Bool.eq_false_iff.1 h hok.2

theorem deliveredTo_of_accepted {nch k : Nat} {xs : List F64} (hl : xs.length = nch) (hx : allFinite xs = true) :
    deliveredTo nch k xs = xs[k]? :=
  if_pos ⟨hl, hx⟩

/-! ### The peak registers of a channel along a run (O45) -/

/-- A session of `nch` channels with the true-peak path running, `SP_EN = sp`, and the peaks `spk` and `tpk` on
channel `k`. -/
structure PeaksAt (nch : BitVec 8) (sp : Bool) (k : Nat) (spk tpk : F64) (r : Session) : Prop where
  nch_eq : r.nch = nch
  chan_count : r.chans.length = nch.toNat
  spEn_eq : r.spEn = sp
  active : tpActive r = true
  chan : ∃ c, r.chans[k]? = some c ∧ c.spk = spk ∧ c.tpk = tpk

section
variable {nch : BitVec 8} {sp : Bool} {k : Nat} {spk tpk : F64} {r : Session}

/-- A block cycle moves no peak. -/
theorem PeaksAt.blockCycle (h : PeaksAt nch sp k spk tpk r) (n : Nat) :
    PeaksAt nch sp k spk tpk (blockCycle n r) where
  nch_eq := h.nch_eq
  chan_count := by simp [h.chan_count]
  spEn_eq := h.spEn_eq
  active := h.active
  chan := by
    obtain ⟨c, hc, hspk, htpk⟩ := h.chan
    exact ⟨clearAcc c, by simp [hc], hspk, htpk⟩

/-- Channel `k` of a frame that is wide enough has a sample. -/
theorem PeaksAt.exists_sample (h : PeaksAt nch sp k spk tpk r) {xs : List F64} (hl : xs.length = nch.toNat) :
    ∃ x, xs[k]? = some x := by
  obtain ⟨c, hc, -⟩ := h.chan
  obtain ⟨hk, -⟩ := List.getElem?_eq_some_iff.1 hc
  exact ⟨_, List.getElem?_eq_getElem (hl.trans h.chan_count.symm ▸ hk)⟩

/-- A raw frame raises the sample peak of channel `k` by its sample, when `SP_EN` is set (R141). -/
theorem PeaksAt.ingestFrame (h : PeaksAt nch sp k spk tpk r) {xs : List F64} (hl : xs.length = nch.toNat) :
    PeaksAt nch sp k (raiseWhen sp xs[k]?.toList spk) tpk (ingestFrame xs r) where
  nch_eq := h.nch_eq
  chan_count := by simp [hl, h.chan_count]
  spEn_eq := h.spEn_eq
  active := h.active
  chan := by
    obtain ⟨x, hx⟩ := h.exists_sample hl
    obtain ⟨c, hc, rfl, rfl⟩ := h.chan
    obtain rfl := h.spEn_eq
    refine ⟨_, getElem?_ingestFrame_chans hx hc, ?_, ingestSample_tpk ..⟩
    rw [ingestSample_spk, hx]
    rfl

/-- An oversampled frame raises the true peak of channel `k` by its sample (R144). -/
theorem PeaksAt.foldTruePeaks (h : PeaksAt nch sp k spk tpk r) {ys : List F64} (hl : ys.length = nch.toNat) :
    PeaksAt nch sp k spk (raiseAll ys[k]?.toList tpk) (foldTruePeaks ys r) where
  nch_eq := h.nch_eq
  chan_count := by simp [hl, h.chan_count]
  spEn_eq := h.spEn_eq
  active := h.active
  chan := by
    obtain ⟨y, hy⟩ := h.exists_sample hl
    obtain ⟨c, hc, rfl, rfl⟩ := h.chan
    refine ⟨truePeakSample y c, List.getElem?_zipWith_eq_some.2 ⟨y, c, hy, hc, rfl⟩, rfl, ?_⟩
    rw [truePeakSample_tpk, hy]
    rfl

end

/-- The machine is in a live session with these peaks on channel `k`. -/
def LivePeaks (nch : BitVec 8) (sp : Bool) (k : Nat) (spk tpk : F64) (s : State) : Prop :=
  ∃ ph r, s.facade = .active ph r ∧ ph ≠ .closed ∧ PeaksAt nch sp k spk tpk r

section
variable {nch : BitVec 8} {sp : Bool} {k : Nat} {spk tpk : F64} {s : State}

theorem LivePeaks.of_facade_eq {t : State} (h : LivePeaks nch sp k spk tpk s) (ht : t.facade = s.facade) :
    LivePeaks nch sp k spk tpk t := by
  obtain ⟨ph, r, hs, hp, hr⟩ := h
  exact ⟨ph, r, ht.trans hs, hp, hr⟩

theorem livePeaks_commitFrame {r : Session} (h : PeaksAt nch sp k spk tpk r) (u : State) :
    LivePeaks nch sp k spk tpk (commitFrame r u) := by
  rcases commitFrame_cases r u with ⟨_, hc⟩ | ⟨_, hc⟩ <;> rw [hc]
  · exact ⟨_, _, rfl, nofun, h.blockCycle _⟩
  · exact ⟨_, _, rfl, nofun, h⟩

/-- A refused frame delivers nothing and moves no peak. -/
theorem livePeaks_checkFrame {xs : List F64} {r : Session} {u : State} (spkOf tpkOf : List F64 → F64)
    (h : LivePeaks nch sp k (spkOf []) (tpkOf []) s) (hnch : r.nch = nch)
    (hu : xs.length = nch.toNat → LivePeaks nch sp k (spkOf xs[k]?.toList) (tpkOf xs[k]?.toList) u) :
    LivePeaks nch sp k (spkOf (deliveredTo nch.toNat k xs).toList) (tpkOf (deliveredTo nch.toNat k xs).toList)
      (checkFrame xs r s u) := by
  subst hnch
  rcases checkFrame_cases xs r s u with ⟨hl, hc⟩ | ⟨_, hx, hc⟩ | ⟨hl, hx, hc⟩ <;> rw [hc]
  · rw [deliveredTo_of_length_ne hl]
    exact h.of_facade_eq rfl
  · rw [deliveredTo_of_not_finite hx]
    exact h.of_facade_eq rfl
  · rw [deliveredTo_of_accepted hl hx]
    exact hu hl

/-- FRAME in a live session: the checks of a frame, then the frame ingested (R158). -/
theorem exec_frame_live {ph : Phase} {r : Session} (xs : List F64) (hs : s.facade = .active ph r) (hp : ph ≠ .closed) :
    exec (.frame xs) s = .next (checkFrame xs r s
      (respondOk (commitFrame (ingestFrame xs r) (requestResample xs r s)))) :=
  congrArg _ (whenLive_live _ hs hp)

/-- FRAME, OSFRAME and RD keep the session live, and raise the peaks of channel `k` by what they deliver to it. -/
theorem exec_streaming {i : Instr} (hi : isStreaming i = true) (h : LivePeaks nch sp k spk tpk s) :
    ∃ t, exec i s = .next t ∧
      LivePeaks nch sp k (raiseWhen sp (rawSamples nch.toNat k [i]) spk)
        (raiseAll (oversampledSamples nch.toNat k [i]) tpk) t := by
  have ⟨ph, r, hs, hp, hr⟩ := h
  cases i with
  | frame xs =>
    refine ⟨_, exec_frame_live xs hs hp, ?_⟩
    rw [rawSamples_frame]
    refine livePeaks_checkFrame (raiseWhen sp · spk) (fun _ => tpk) ?_ hr.nch_eq fun hl => ?_
    · rwa [raiseWhen_nil]
    · exact (livePeaks_commitFrame (hr.ingestFrame hl) _).of_facade_eq rfl
  | osframe ys =>
    have hraw : rawSamples nch.toNat k [.osframe ys] = [] := rfl
    refine ⟨_, exec_osframe_live ys hs hp, ?_⟩
    rw [hraw, raiseWhen_nil, oversampledSamples_osframe, if_pos hr.active]
    exact livePeaks_checkFrame (fun _ => spk) (raiseAll · tpk) h hr.nch_eq fun hl =>
      ⟨ph, _, rfl, hp, hr.foldTruePeaks hl⟩
  | rd sel db =>
    have hraw : rawSamples nch.toNat k [.rd sel db] = [] := rfl
    obtain ⟨t, hexec, hfac, -⟩ := exec_of_isRead (i := .rd sel db) rfl s
    rw [hraw, raiseWhen_nil]
    exact ⟨t, hexec, h.of_facade_eq hfac⟩
  | _ => cases hi

/-- A run of FRAME, OSFRAME and RD completes, and raises the peaks of channel `k` by all that it delivers to it. -/
theorem execs_streaming {is : List Instr} (his : ∀ i ∈ is, isStreaming i = true) (h : LivePeaks nch sp k spk tpk s) :
    ∃ t, execs is s = some t ∧
      LivePeaks nch sp k (raiseWhen sp (rawSamples nch.toNat k is) spk)
        (raiseAll (oversampledSamples nch.toNat k is) tpk) t := by
  induction is generalizing s spk tpk with
  | nil => exact ⟨s, rfl, (raiseWhen_nil sp spk).symm ▸ h⟩
  | cons i is ih =>
    obtain ⟨hi, his⟩ := List.forall_mem_cons.1 his
    obtain ⟨u, hexec, hu⟩ := exec_streaming hi h
    obtain ⟨t, hrun, ht⟩ := ih his hu
    refine ⟨t, by simpa only [execs, hexec] using hrun, ?_⟩
    rw [rawSamples_cons, oversampledSamples_cons, raiseWhen_append, raiseAll_append]
    exact ht

end

/-- Settles O45: both registers are running maxima of what was delivered, and of two such the one over more samples is
the greater. -/
theorem truePeakCoversSamplePeak : Obligations.TruePeakCoversSamplePeak := by
  constructor
  · intro xs ys hy hsub
    exact (isPeakOf_raiseAll fun x hx => hy x (hsub x hx)).fLe_raiseAll hy hsub
  · intro is s ph r k c hs hp hcount htp hfail hc hspk htpk his raw resampled
    have hstart : LivePeaks r.nch r.spEn k Config.zero Config.zero s :=
      ⟨ph, r, hs, hp, rfl, hcount, rfl, (tpActive_iff r).2 ⟨htp, hfail⟩, c, hc, hspk, htpk⟩
    obtain ⟨t, hrun, ph', r', ht, -, hpeaks⟩ := execs_streaming his hstart
    obtain ⟨c', hc', hspk', htpk'⟩ := hpeaks.chan
    have hraw : IsPeakOf (raiseAll raw Config.zero) raw := isPeakOf_raiseAll isFinite_of_mem_rawSamples
    have hos : ∀ y ∈ resampled, isFinite y = true := isFinite_of_mem_oversampledSamples
    refine ⟨t, ph', r', c', hrun, ht, hc', ?_, fun hsp => ?_, fun hsp => ?_, fun hsub => ?_⟩
    · rw [htpk']
      exact isPeakOf_raiseAll hos
    · rw [hspk', hsp]
      exact hraw
    · rw [hspk', hsp, raiseWhen_false]
    · rw [hspk', htpk']
      cases r.spEn with
      | true => exact hraw.fLe_raiseAll hos hsub
      | false => exact peakOk_zero.fLe_raiseAll (allFinite_iff.2 hos)

end Sys2Proof.Machine
end

section
/-! SUPPORT. The true-peak path is isolated (44_peak.md R146, 45_facade.md R162): a change to a session either writes
nothing but true-peak state, or what it writes elsewhere does not depend on that state. -/

namespace Sys2Proof.Machine

/-! ### The changes to a session, without their true-peak state -/

/-- A channel without what the true-peak path writes of it. -/
def Channel.withoutTruePeak (c : Channel) : Channel := { c with tpk := Config.zero }

theorem withoutTruePeak_eq (r : Session) : withoutTruePeak r =
    { r with
      chans := r.chans.map Channel.withoutTruePeak
      tpkG := Config.zero
      osSeen := false
      tpFail := false
      snap := { r.snap with tp := [], tpG := none } } := rfl

theorem ingestSample_withoutTruePeak (sp : Bool) (pre rlb : Stage) (x : F64) (c : Channel) :
    ingestSample sp pre rlb x c.withoutTruePeak = (ingestSample sp pre rlb x c).withoutTruePeak := by
  cases sp <;> rfl

/-- A frame leaves the true-peak state alone and does not read it. -/
theorem withoutTruePeak_ingestFrame (xs : List F64) (r : Session) :
    withoutTruePeak (ingestFrame xs r) = ingestFrame xs (withoutTruePeak r) := by
  have hchans : (List.zipWith (ingestSample r.spEn r.pre r.rlb) xs r.chans).map Channel.withoutTruePeak =
      List.zipWith (ingestSample r.spEn r.pre r.rlb) xs (r.chans.map Channel.withoutTruePeak) := by
    simp only [List.map_zipWith, List.zipWith_map_right, ingestSample_withoutTruePeak]
  rw [withoutTruePeak_eq, ingestFrame_chans, hchans]
  rfl

/-- A publish reads the true-peak state for the published true peaks alone. -/
theorem withoutTruePeak_publish (r : Session) :
    withoutTruePeak (publish (withoutTruePeak r)) = withoutTruePeak (publish r) := by
  have hchans : (r.chans.map Channel.withoutTruePeak).map Channel.withoutTruePeak =
      r.chans.map Channel.withoutTruePeak := by
    rw [List.map_map]
    rfl
  have hsp : (r.chans.map Channel.withoutTruePeak).map (fun c => if spValid r then some c.spk else none) =
      r.chans.map (fun c => if spValid r then some c.spk else none) := by
    rw [List.map_map]
    rfl
  exact congrArg₂ (fun cs sps => { withoutTruePeak (publish r) with
    chans := cs
    snap := { (withoutTruePeak (publish r)).snap with sp := sps } }) hchans hsp

/-- The block power, the pushes and the gates neither read nor write the true-peak state. -/
theorem withoutTruePeak_integrate (n : Nat) (r : Session) :
    integrate (blockPower n (withoutTruePeak r).chans) (clearBlock (withoutTruePeak r)) =
      withoutTruePeak (integrate (blockPower n r.chans) (clearBlock r)) := by
  have hpower : blockPower n (r.chans.map Channel.withoutTruePeak) = blockPower n r.chans := List.foldl_map
  have hclear : (r.chans.map Channel.withoutTruePeak).map clearAcc =
      (r.chans.map clearAcc).map Channel.withoutTruePeak := by
    rw [List.map_map, List.map_map]
    rfl
  rw [withoutTruePeak_eq, hpower, clearBlock, hclear]
  rfl

/-- A block cycle reads the true-peak state for the published true peaks alone. -/
theorem withoutTruePeak_blockCycle (n : Nat) (r : Session) :
    withoutTruePeak (blockCycle n (withoutTruePeak r)) = withoutTruePeak (blockCycle n r) := by
  rw [blockCycle, withoutTruePeak_integrate, withoutTruePeak_publish, blockCycle]

/-- An oversampled frame as wide as the channels writes true-peak state alone (R144). -/
theorem withoutTruePeak_foldTruePeaks {ys : List F64} {r : Session} (h : r.chans.length ≤ ys.length) :
    withoutTruePeak (foldTruePeaks ys r) = withoutTruePeak r := by
  rw [withoutTruePeak_eq, foldTruePeaks_chans,
    map_zipWith_of_frame Channel.withoutTruePeak (f := truePeakSample) (fun _ _ => rfl) h]
  rfl

/-- OSFAIL writes true-peak state alone (R146). -/
theorem withoutTruePeak_markFailed (r : Session) : withoutTruePeak (markFailed r) = withoutTruePeak r := rfl

theorem withoutTruePeak_chans_length (r : Session) : (withoutTruePeak r).chans.length = r.chans.length :=
  List.length_map _

/-! ### Sessions that agree -/

/-- Two sessions agree but for what the true-peak path writes. -/
def AgreeSession (r1 r2 : Session) : Prop := withoutTruePeak r1 = withoutTruePeak r2

section
variable {r1 r2 : Session} (h : AgreeSession r1 r2)
include h

theorem AgreeSession.nch : r1.nch = r2.nch := (congrArg Session.nch h :)
theorem AgreeSession.nacc : r1.nacc = r2.nacc := (congrArg Session.nacc h :)
theorem AgreeSession.blockLen : r1.blockLen = r2.blockLen := (congrArg Session.blockLen h :)

theorem AgreeSession.chans_length : r1.chans.length = r2.chans.length := by
  rw [← withoutTruePeak_chans_length r1, h, withoutTruePeak_chans_length]

theorem AgreeSession.ingestFrame (xs : List F64) : AgreeSession (ingestFrame xs r1) (ingestFrame xs r2) := by
  rw [AgreeSession, withoutTruePeak_ingestFrame, h, withoutTruePeak_ingestFrame]

theorem AgreeSession.publish : AgreeSession (publish r1) (publish r2) := by
  rw [AgreeSession, ← withoutTruePeak_publish r1, h, withoutTruePeak_publish]

theorem AgreeSession.blockCycle (n : Nat) : AgreeSession (blockCycle n r1) (blockCycle n r2) := by
  rw [AgreeSession, ← withoutTruePeak_blockCycle n r1, h, withoutTruePeak_blockCycle]

end

/-! ### Machines that agree -/

/-- Two machines agree but for what the true-peak path writes and for their streams. -/
def Agree (s1 s2 : State) : Prop := facadeWithoutTruePeak s1.facade = facadeWithoutTruePeak s2.facade

theorem agree_of_facade_eq {s t : State} (h : t.facade = s.facade) : Agree t s := congrArg facadeWithoutTruePeak h

theorem agree_of_active {s1 s2 : State} {ph : Phase} {r1 r2 : Session} (h1 : s1.facade = .active ph r1)
    (h2 : s2.facade = .active ph r2) (h : AgreeSession r1 r2) : Agree s1 s2 := by
  rw [Agree, h1, h2]
  exact congrArg (Facade.active ph) h

/-- Machines that agree both have no session, or have sessions that agree, in the same phase. -/
theorem Agree.cases {s1 s2 : State} (h : Agree s1 s2) : (s1.facade = .uninitialized ∧ s2.facade = .uninitialized) ∨
    ∃ ph r1 r2, s1.facade = .active ph r1 ∧ s2.facade = .active ph r2 ∧ AgreeSession r1 r2 := by
  unfold Agree at h
  cases hf1 : s1.facade <;> cases hf2 : s2.facade <;> rw [hf1, hf2] at h
  case uninitialized.uninitialized => exact .inl ⟨rfl, rfl⟩
  case active.active =>
    injection h with hph hr
    subst hph
    exact .inr ⟨_, _, _, rfl, rfl, hr⟩
  all_goals cases h

section
variable {s1 s2 : State} (h : Agree s1 s2)
include h

theorem Agree.of_facade_eq {t1 t2 : State} (h1 : t1.facade = s1.facade) (h2 : t2.facade = s2.facade) : Agree t1 t2 :=
  (agree_of_facade_eq h1).trans (h.trans (agree_of_facade_eq h2).symm)

/-- Both machines pass the state checks, or both are refused. -/
theorem agree_whenLive {k1 k2 : Phase → Session → State}
    (hk : ∀ ph r1 r2, s1.facade = .active ph r1 → s2.facade = .active ph r2 → AgreeSession r1 r2 →
      Agree (k1 ph r1) (k2 ph r2)) : Agree (whenLive s1 k1) (whenLive s2 k2) := by
  rcases h.cases with ⟨h1, h2⟩ | ⟨ph, r1, r2, h1, h2, hr⟩
  · rw [whenLive_uninitialized k1 h1, whenLive_uninitialized k2 h2]
    exact h.of_facade_eq rfl rfl
  · by_cases hp : ph = .closed
    · subst hp
      rw [whenLive_closed k1 h1, whenLive_closed k2 h2]
      exact h.of_facade_eq rfl rfl
    · rw [whenLive_live k1 h1 hp, whenLive_live k2 h2 hp]
      exact hk ph r1 r2 h1 h2 hr

/-- Both machines accept a frame, or both refuse it. -/
theorem agree_checkFrame {xs : List F64} {r1 r2 : Session} {k1 k2 : State} (hr : AgreeSession r1 r2)
    (hk : xs.length = r1.nch.toNat → Agree k1 k2) : Agree (checkFrame xs r1 s1 k1) (checkFrame xs r2 s2 k2) := by
  unfold checkFrame
  rw [← hr.nch]
  split_ifs with hl hx
  · exact h.of_facade_eq rfl rfl
  · exact h.of_facade_eq rfl rfl
  · exact hk (not_not.1 hl)

end

/-- The end of a frame: both machines close the block, or neither. -/
theorem agree_commitFrame {r1 r2 : Session} (hr : AgreeSession r1 r2) (u1 u2 : State) :
    Agree (commitFrame r1 u1) (commitFrame r2 u2) := by
  unfold commitFrame
  rw [← hr.nacc, ← hr.blockLen]
  split
  · exact agree_of_active rfl rfl (hr.blockCycle _)
  · exact agree_of_active rfl rfl hr

/-- An accepted OSFRAME, with the true-peak path on or off, writes true-peak state alone. -/
theorem agree_osframe_effect {s : State} {ph : Phase} {r : Session} {ys : List F64} (hs : s.facade = .active ph r)
    (h : r.chans.length ≤ ys.length) :
    Agree (respondOk (if tpActive r then s.setFacade (.active ph (foldTruePeaks ys r)) else s)) s := by
  split
  · exact agree_of_active rfl hs (withoutTruePeak_foldTruePeaks h)
  · exact agree_of_facade_eq rfl

/-- OSFAIL, with true peak enabled or not, writes true-peak state alone. -/
theorem agree_osfail_effect {s : State} {ph : Phase} {r : Session} (hs : s.facade = .active ph r) :
    Agree (respondOk (if r.tpEn then s.setFacade (.active ph (markFailed r)) else s)) s := by
  split
  · exact agree_of_active rfl hs (withoutTruePeak_markFailed r)
  · exact agree_of_facade_eq rfl

/-! ### Commands and runs (O59) -/

/-- The session has `NCH` channels (R24), of which `PeakInv.chan_count` speaks. -/
def HasNchChannels (_ : Phase) (r : Session) : Prop := r.chans.length = r.nch.toNat

theorem hasNchChannels_stable : SessionStable HasNchChannels where
  init _ _ _ st hok _ := (peakInv_newSession st hok).chan_count
  frame _ r xs h _ hl _ := by
    have hframe : (ingestFrame xs r).chans.length = r.nch.toNat := by simp [hl, show r.chans.length = _ from h]
    exact ⟨fun _ => (List.length_map clearAcc).trans hframe, fun _ => hframe⟩
  osframe _ r ys h _ hl _ _ := by simp [HasNchChannels, foldTruePeaks, hl, show r.chans.length = _ from h]
  osfail _ _ h _ _ := h
  close _ _ h _ := ⟨fun _ => (List.length_map clearAcc).trans h, fun _ => h⟩

/-- INIT depends on the phase alone, and replaces the whole record or leaves it. -/
theorem agree_init {s1 s2 t1 t2 : State} {w0 w1 w2 : W64} (h : Agree s1 s2)
    (h1 : exec (.init w0 w1 w2) s1 = .next t1) (h2 : exec (.init w0 w1 w2) s2 = .next t2) : Agree t1 t2 := by
  rcases h.cases with ⟨hf1, hf2⟩ | ⟨ph, r1, r2, hf1, hf2, -⟩
  · obtain ⟨f, _, _, he1, he2⟩ := outputsDependOnFacadeAlone (.init w0 w1 w2) s1 s2 (hf1.trans hf2.symm)
    cases h1.symm.trans he1
    cases h2.symm.trans he2
    rfl
  · cases h1
    cases h2
    exact h.of_facade_eq (whenNoSession_facade_of_active hf1 _) (whenNoSession_facade_of_active hf2 _)

/-- Machines that agree still agree after one command. -/
theorem agree_exec {i : Instr} {s1 s2 t1 t2 : State} (h : Agree s1 s2) (hn : OnSession HasNchChannels s1)
    (h1 : exec i s1 = .next t1) (h2 : exec i s2 = .next t2) : Agree t1 t2 := by
  cases i with
  | init w0 w1 w2 => exact agree_init h h1 h2
  | frame xs =>
    cases h1
    cases h2
    exact agree_whenLive h fun ph r1 r2 _ _ hr => agree_checkFrame h hr fun _ =>
      (agree_commitFrame (hr.ingestFrame xs) _ _).of_facade_eq rfl rfl
  | osframe ys =>
    cases h1
    cases h2
    refine agree_whenLive h fun ph r1 r2 hf1 hf2 hr => agree_checkFrame h hr fun hl => ?_
    have hlen : r1.chans.length = ys.length := by
      rw [OnSession, hf1] at hn
      exact hn.trans hl.symm
    exact (agree_osframe_effect hf1 hlen.le).trans
      (h.trans (agree_osframe_effect hf2 (hr.chans_length.symm.trans hlen).le).symm)
  | osfail =>
    cases h1
    cases h2
    exact agree_whenLive h fun ph r1 r2 hf1 hf2 _ =>
      (agree_osfail_effect hf1).trans (h.trans (agree_osfail_effect hf2).symm)
  | close =>
    cases h1
    cases h2
    refine agree_whenLive h fun ph r1 r2 _ _ hr => ?_
    rw [← hr.nacc]
    split
    · exact agree_of_active rfl rfl (hr.blockCycle _)
    · exact agree_of_active rfl rfl hr.publish
  | reset =>
    cases h1
    cases h2
    rfl
  | rd sel db =>
    obtain ⟨_, he1, hf1, -⟩ := exec_of_isRead (i := .rd sel db) rfl s1
    obtain ⟨_, he2, hf2, -⟩ := exec_of_isRead (i := .rd sel db) rfl s2
    cases h1.symm.trans he1
    cases h2.symm.trans he2
    exact h.of_facade_eq hf1 hf2

/-- Settles O59: agreement is kept command by command. -/
theorem truePeakPathIsIsolated : Obligations.TruePeakPathIsIsolated := by
  intro is
  induction is with
  | nil =>
    intro s1 s2 t1 t2 _ h h1 h2
    cases h1
    cases h2
    exact h
  | cons i is ih =>
    intro s1 s2 t1 t2 hn h h1 h2
    obtain ⟨u1, he1⟩ := exec_total i s1
    obtain ⟨u2, he2⟩ := exec_total i s2
    simp only [execs, he1] at h1
    simp only [execs, he2] at h2
    exact ih u1 u2 t1 t2 (exec_preserves hasNchChannels_stable hn he1) (agree_exec h hn he1 he2) h1 h2

end Sys2Proof.Machine
end

section
/-! SUPPORT. The commands of the Metric Facade (45_facade.md R155 to R164), each as one rule: what it refuses and what
an accepted one leaves behind. -/

namespace Sys2Proof.Machine

/-! ### RESET (O16) -/

/-- Settles O16. -/
theorem resetFollowsItsRule : Obligations.ResetFollowsItsRule := ⟨by decide, fun _ => ⟨rfl, rfl⟩⟩

/-! ### The publish (O25) -/

theorem spValid_iff (r : Session) : spValid r = true ↔ r.spEn = true ∧ r.seen = true := by
  simp [spValid]

theorem tpValid_iff (r : Session) : tpValid r = true ↔ r.tpEn = true ∧ r.tpFail = false ∧ r.osSeen = true := by
  simp [tpValid, and_assoc]

/-- A window's published loudness: that of its energy, once the window has filled (R112, R120). -/
theorem windowAvg_map_loud (w : Win) (g : Integrator) : (windowAvg w g).map loud =
    if g.filled = true then some (loud (fDiv g.sum (fOfNat (Config.slots w)))) else none := by
  rw [windowAvg, apply_ite (Option.map loud)]
  rfl

/-- Settles O25: the snapshot, metric by metric; the record around it stands. -/
theorem publishFollowsItsRule : Obligations.PublishFollowsItsRule := by
  intro r spv tpv
  refine ⟨rfl, windowAvg_map_loud .momentary r.int0, windowAvg_map_loud .shortTerm r.int1, rfl, ?noRange, ?range,
    ⟨List.length_map _, List.length_map _⟩, ?channel, if_congr (spValid_iff r) rfl rfl,
    if_congr (tpValid_iff r) rfl rfl⟩
  case noRange =>
    intro hnone
    simp [snapshotOf, hnone]
  case range =>
    intro d lo hi hsome
    simp [snapshotOf, hsome]
  case channel =>
    intro k c hc
    simp only [publish_snap, snapshotOf, List.getElem?_map, hc, Option.map_some]
    exact ⟨congrArg some (if_congr (spValid_iff r) rfl rfl), congrArg some (if_congr (tpValid_iff r) rfl rfl)⟩

/-! ### CLOSE (O26) -/

/-- CLOSE in a live session: a partial block is flushed, and otherwise the session is published (R159). -/
theorem exec_close_live {s : State} {ph : Phase} {r : Session} (hs : s.facade = .active ph r) (hp : ph ≠ .closed) :
    exec .close s = .next (respondOk (emit .closed
      (if r.nacc ≠ 0 then refreshTo .closed r.nacc.toNat r s else s.setFacade (.active .closed (publish r))))) :=
  congrArg _ (whenLive_live _ hs hp)

/-- Two events sent one after the other stand behind those sent before, in that order. -/
theorem emit_emit (e e' : Event) (s : State) : emit e' (emit e s) = { s with events := s.events ++ [e, e'] } := by
  simp [emit, State.pushEvent]

/-- Settles O26: the state checks, then the flush of a partial block or the publish. -/
theorem closeFollowsItsRule : Obligations.CloseFollowsItsRule := by
  refine ⟨by decide, fun s hs => congrArg _ (whenLive_uninitialized _ hs),
    fun s r hs => congrArg _ (whenLive_closed _ hs), fun s ph r hs hp => ?_⟩
  rw [exec_close_live hs hp]
  constructor
  · intro hn
    rw [if_pos hn, refreshTo, emit_emit]
    rfl
  · intro hn
    rw [if_neg (not_not.2 hn)]
    rfl

/-! ### FRAME (O20) -/

/-- The request to the resampling collaborator is one event more, when the true-peak path runs (R143). -/
theorem requestResample_eq (xs : List F64) (r : Session) (s : State) : requestResample xs r s =
    { s with events := s.events ++ if r.tpEn = true ∧ r.tpFail = false then [.rsreq xs 4] else [] } := by
  rcases requestResample_cases xs r s with ⟨hactive, h⟩ | ⟨hoff, h⟩ <;> rw [h]
  · rw [if_pos ((tpActive_iff r).1 hactive)]
    rfl
  · rw [if_neg (mt (tpActive_iff r).2 (Bool.eq_false_iff.1 hoff)), List.append_nil]

/-- The end of a frame: the facade, and `EV_REFRESH` when the block is complete (R158). -/
theorem commitFrame_eq (r : Session) (s : State) : commitFrame r s =
    { s with
      facade := if r.nacc = r.blockLen then .active .refreshed (blockCycle r.blockLen.toNat r)
        else .active .accumulating r
      events := s.events ++ if r.nacc = r.blockLen then [.refresh] else [] } := by
  rcases commitFrame_cases r s with ⟨hlast, h⟩ | ⟨hmore, h⟩ <;> rw [h]
  · rw [if_pos hlast, if_pos hlast]
    rfl
  · rw [if_neg hmore, if_neg hmore, List.append_nil]
    rfl

/-- Settles O20: the refusals check by check, then the request, and the end of the frame on the ingested frame. -/
theorem frameFollowsItsRule : Obligations.FrameFollowsItsRule := by
  refine ⟨fun xs hlen => congrArg (· :: _) (headerWord_of_length 2 hlen),
    fun s xs hs => congrArg _ (whenLive_uninitialized _ hs), fun s r xs hs => congrArg _ (whenLive_closed _ hs),
    fun s ph r xs hs hp => ?_⟩
  rw [exec_frame_live xs hs hp]
  refine ⟨fun hne => congrArg _ (checkFrame_of_length_ne _ _ hne),
    fun hlen hbad => congrArg _ (checkFrame_of_not_finite _ _ hlen hbad), fun hlen hfin => ?_⟩
  rw [checkFrame_ok _ _ hlen (allFinite_iff.2 hfin), requestResample_eq, commitFrame_eq]
  rfl

/-! ### INIT (O19) -/

/-- INIT in a session is refused, whatever its payload (R156). -/
theorem exec_init_of_active {s : State} {ph : Phase} {r : Session} (w0 w1 w2 : W64) (hs : s.facade = .active ph r) :
    exec (.init w0 w1 w2) s = .next (raise (if ph = .closed then .eTerminal else .eSeq) s) := by
  rw [exec, execInit, whenNoSession, hs]
  cases ph <;> rfl

/-- INIT without a session: the checks of the payload, then the coefficients of the rate (R156). -/
theorem exec_init_of_uninitialized {s : State} (w0 w1 w2 : W64) (hs : s.facade = .uninitialized) :
    exec (.init w0 w1 w2) s = .next (if initPayloadOk w0 w1 w2 then
      commitInit w0 w1 w2 (Config.coef (initRate w0)) s else raise .eConfig s) := by
  rw [exec, execInit, whenNoSession, hs]

theorem classOk_iff (nch c : Nat) (k : BitVec 8) :
    classOk nch c k = true ↔ (c < nch → k.toNat ≤ 1) ∧ (nch ≤ c → k = 0) := by
  by_cases h : c < nch
  · simp [classOk, h]
  · simp [classOk, h, not_lt.1 h]

theorem classesOk_iff (nch : Nat) (ks : List (BitVec 8)) :
    classesOk nch ks = true ↔ ∀ c k, ks[c]? = some k → classOk nch c k = true := by
  simp only [classesOk, List.all_eq_true, Prod.forall, List.mem_zipIdx_iff_getElem?]
  exact forall_comm

theorem getElem?_classBytes (w2 : W64) (c : Nat) :
    (classBytes w2)[c]? = if c < 8 then some (classByte w2 c) else none := by
  rw [classBytes, List.getElem?_map]
  by_cases h : c < 8
  · rw [List.getElem?_range h, if_pos h, Option.map_some]
  · rw [List.getElem?_eq_none (by simpa using h), if_neg h, Option.map_none]

/-- The class bytes of INIT's third word, legal channel by channel (R73, R187 cause 5). -/
theorem classesOk_classBytes (nch : Nat) (w2 : W64) : classesOk nch (classBytes w2) = true ↔
    ∀ c, c < 8 → (c < nch → (classByte w2 c).toNat ≤ 1) ∧ (nch ≤ c → classByte w2 c = 0) := by
  simp [classesOk_iff, getElem?_classBytes, classOk_iff]

theorem dualApplies_iff (dm : Bool) (nch : BitVec 8) : dualApplies dm nch = true ↔ dm = true ∧ nch = 1 := by
  simp [dualApplies]

/-- `PANW` is asked for where dual mono applies (R101, R187 cause 6). -/
theorem panwOk_iff (dm : Bool) (nch : BitVec 8) (panw : F64) : panwOk dm nch panw = true ↔
    (dm = true → nch = 1 → isFinite panw = true ∧ fGt panw Config.zero = true) := by
  rw [← and_imp, ← dualApplies_iff]
  cases h : dualApplies dm nch <;> simp [panwOk, h]

/-- The checks of INIT on its payload, operand by operand (R156, R187 causes 1 and 3 to 6). -/
theorem initPayloadOk_iff_operands (w0 w1 w2 : W64) : initPayloadOk w0 w1 w2 = true ↔
    initReserved w0 = 0 ∧ initRate w0 ≠ 0 ∧ (initRate w0).toNat % 10 = 0 ∧
    1 ≤ (initNch w0).toNat ∧ (initNch w0).toNat ≤ 8 ∧
    (∀ c, c < 8 → (c < (initNch w0).toNat → (classByte w2 c).toNat ≤ 1) ∧
      ((initNch w0).toNat ≤ c → classByte w2 c = 0)) ∧
    (initDualMono w0 = true → initNch w0 = 1 → isFinite ⟨w1⟩ = true ∧ fGt ⟨w1⟩ Config.zero = true) := by
  rw [initPayloadOk_iff, classesOk_classBytes, panwOk_iff, and_assoc, and_assoc]
  rfl

/-- `BLOCK_LEN` is a tenth of the rate as a number (R24). -/
theorem newSession_blockLen (w0 w1 w2 : W64) (st : Stage × Stage) :
    (newSession w0 w1 w2 st).blockLen = BitVec.ofNat 32 ((initRate w0).toNat / 10) :=
  BitVec.udiv_def

/-- The weight of a channel: `PANW` where dual mono applies, else that of its class (R100, R101). -/
theorem channelWeight_eq (dm : Bool) (nch : BitVec 8) (panw : F64) (k : BitVec 8) : channelWeight dm nch panw k =
    if dm = true ∧ nch = 1 then panw else if k = 1 then ⟨0x3FF699C0F7E86E10⟩ else ⟨0x3FF0000000000000⟩ :=
  if_congr (dualApplies_iff dm nch) rfl rfl

/-- The first `n` class bytes are those of the channels below `n`. -/
theorem take_classBytes (w2 : W64) {n : Nat} (hn : n ≤ 8) :
    (classBytes w2).take n = (List.range n).map (classByte w2) := by
  rw [classBytes, ← List.map_take, List.take_range, Nat.min_eq_left hn]

/-- The channels of a new session, each with the weight of its class byte (R38, R100). -/
theorem newSession_chans {w0 : W64} (w1 w2 : W64) (st : Stage × Stage) (hn : (initNch w0).toNat ≤ 8) :
    (newSession w0 w1 w2 st).chans = (List.range (initNch w0).toNat).map fun c =>
      newChannel (if initDualMono w0 = true ∧ initNch w0 = 1 then ⟨w1⟩
        else if classByte w2 c = 1 then ⟨0x3FF699C0F7E86E10⟩ else ⟨0x3FF0000000000000⟩) := by
  simp only [newSession, take_classBytes w2 hn, List.map_map, Function.comp_def, channelWeight_eq]

/-- Settles O19: the state checks, the payload operand by operand, and the session with its derived registers written
out; the others stand in `newSession` as R38 gives them. -/
theorem initFollowsItsRule : Obligations.InitFollowsItsRule := by
  refine ⟨fun w0 w1 w2 => congrArg (· :: _) (by decide), fun s ph r w0 w1 w2 hs => exec_init_of_active w0 w1 w2 hs,
    fun s w0 w1 w2 hs => ?_⟩
  intro rate nch dm panw cls valid
  have hvalid : initPayloadOk w0 w1 w2 = true ↔ valid := initPayloadOk_iff_operands w0 w1 w2
  rw [exec_init_of_uninitialized w0 w1 w2 hs]
  refine ⟨fun hbad => by rw [if_neg (mt hvalid.1 hbad)]; rfl, fun hok => ?_⟩
  rw [if_pos (hvalid.2 hok)]
  obtain ⟨-, -, -, -, hnch, -⟩ := hok
  rcases commitInit_cases w0 w1 w2 (Config.coef (initRate w0)) s with ⟨hcoef, hcommit⟩ | ⟨st, hcoef, hcommit⟩
  · rw [hcommit, show Config.coef rate = none from hcoef]
    rfl
  · rw [hcommit, show Config.coef rate = some st from hcoef]
    exact congrArg₂ (fun len cs => Host.Outcome.next (respondOk (s.setFacade (.active .ready
      { newSession w0 w1 w2 st with blockLen := len, chans := cs }))))
      (newSession_blockLen w0 w1 w2 st) (newSession_chans w1 w2 st hnch)

/-! ### What `ST` becomes (O14) -/

/-- What a command leaves of `s`: a refusal that changes nothing but the response stream (R186), or an answer OK and a
facade of which `P` holds. -/
inductive RefusedOr (s : State) (P : Facade → Prop) : State → Prop
  | refused {e : Code} (he : e ≠ .ok) : RefusedOr s P (raise e s)
  | accepted {u : State} (hu : u.responses = s.responses) (hP : P u.facade) : RefusedOr s P (respondOk u)

section
variable {s t : State} {P : Facade → Prop}

theorem refusedOr_whenLive {k : Phase → Session → State}
    (hk : ∀ ph r, s.facade = .active ph r → ph ≠ .closed → RefusedOr s P (k ph r)) :
    RefusedOr s P (whenLive s k) := by
  rcases whenLive_cases s k with ⟨_, h⟩ | ⟨_, _, h⟩ | ⟨ph, r, hp, hf, h⟩ <;> rw [h]
  · exact .refused nofun
  · exact .refused nofun
  · exact hk ph r hf hp

theorem refusedOr_checkFrame {xs : List F64} {r : Session} {k : State} (hk : RefusedOr s P k) :
    RefusedOr s P (checkFrame xs r s k) := by
  rcases checkFrame_cases xs r s k with ⟨_, h⟩ | ⟨_, _, h⟩ | ⟨_, _, h⟩ <;> rw [h]
  · exact .refused nofun
  · exact .refused nofun
  · exact hk

theorem refusedOr_whenNoSession {k : State} (hk : s.facade = .uninitialized → RefusedOr s P k) :
    RefusedOr s P (whenNoSession s k) := by
  rcases whenNoSession_cases s k with ⟨hf, h⟩ | ⟨_, _, h⟩ | ⟨_, _, _, _, h⟩ <;> rw [h]
  · exact hk hf
  · exact .refused nofun
  · exact .refused nofun

/-- The answer tells the two apart: with an error `ST` stands, and with OK the facade is an accepted command's. -/
theorem RefusedOr.st_of_answer {a : Response} (h : RefusedOr s P t) (ha : t.responses = s.responses ++ [a]) :
    (a.code ≠ .ok → t.facade.st = s.facade.st) ∧ (a.code = .ok → P t.facade) := by
  cases h with
  | refused he =>
    obtain rfl : ⟨_, false, 0⟩ = a := by simpa using ha
    exact ⟨fun _ => rfl, fun hok => absurd hok he⟩
  | accepted hu hP =>
    obtain rfl : ⟨.ok, false, 0⟩ = a := by simpa [hu] using ha
    exact ⟨fun hne => absurd rfl hne, fun _ => hP⟩

end

/-- `ST` of a live session (R22). -/
theorem st_of_live {ph : Phase} {r : Session} (hp : ph ≠ .closed) :
    (Facade.active ph r).st ≠ .uninitialized ∧ (Facade.active ph r).st ≠ .closed := by
  cases ph with
  | closed => exact absurd rfl hp
  | _ => exact ⟨nofun, nofun⟩

/-- `ST` is that of the phase; the record has no part in it (R22). -/
theorem st_active (ph : Phase) (r r' : Session) : (Facade.active ph r).st = (Facade.active ph r').st := by
  cases ph <;> rfl

/-- A write of the record that leaves the phase of a live session leaves `ST`, and so does no write. -/
theorem stLeft_of_write {s : State} {ph : Phase} {r : Session} (hs : s.facade = .active ph r) (hp : ph ≠ .closed)
    (b : Bool) (r' : Session) :
    RefusedOr s (fun f => s.facade.st ≠ .uninitialized ∧ s.facade.st ≠ .closed ∧ f.st = s.facade.st)
      (respondOk (if b then s.setFacade (.active ph r') else s)) := by
  obtain ⟨hun, hcl⟩ := st_of_live (r := r) hp
  rw [← hs] at hun hcl
  refine .accepted (by split <;> rfl) ⟨hun, hcl, ?_⟩
  split
  · rw [hs]
    exact st_active ph r' r
  · rfl

/-- `ST` at the end of a frame (R155). -/
theorem commitFrame_st (r : Session) (s : State) :
    (commitFrame r s).facade.st = if r.nacc = r.blockLen then .refreshed else .accumulating := by
  rw [commitFrame_eq]
  exact apply_ite Facade.st _ _ _

/-- Settles O14: each command by its checks and its one write of the facade. -/
theorem stateTransitionTable : Obligations.StateTransitionTable := by
  intro i s t a h ha
  cases i with
  | init w0 w1 w2 =>
    cases h
    refine (refusedOr_whenNoSession fun hs => ?_).st_of_answer
      (P := fun f => s.facade.st = .uninitialized ∧ f.st = .ready) ha
    split
    · rcases commitInit_cases w0 w1 w2 (Config.coef (initRate w0)) s with ⟨_, hc⟩ | ⟨st, _, hc⟩ <;> rw [hc]
      · exact .refused nofun
      · exact .accepted rfl ⟨by rw [hs]; rfl, rfl⟩
    · exact .refused nofun
  | frame xs =>
    cases h
    refine (refusedOr_whenLive fun ph r hs hp => refusedOr_checkFrame ?_).st_of_answer
      (P := fun f => ∃ ph r, s.facade = .active ph r ∧ ph ≠ .closed ∧
        f.st = if r.nacc + 1 = r.blockLen then .refreshed else .accumulating) ha
    exact .accepted (by simp) ⟨ph, r, hs, hp, commitFrame_st (ingestFrame xs r) _⟩
  | osframe ys =>
    cases h
    exact (refusedOr_whenLive fun ph r hs hp => refusedOr_checkFrame (stLeft_of_write hs hp _ _)).st_of_answer ha
  | osfail =>
    cases h
    exact (refusedOr_whenLive fun ph r hs hp => stLeft_of_write hs hp _ _).st_of_answer ha
  | close =>
    cases h
    refine (refusedOr_whenLive fun ph r hs hp => ?_).st_of_answer
      (P := fun f => s.facade.st ≠ .uninitialized ∧ s.facade.st ≠ .closed ∧ f.st = .closed) ha
    obtain ⟨hun, hcl⟩ := st_of_live (r := r) hp
    rw [hs]
    refine .accepted ?_ ⟨hun, hcl, ?_⟩ <;> split <;> rfl
  | reset =>
    cases h
    exact RefusedOr.st_of_answer (P := fun f => f.st = .uninitialized) (.accepted rfl rfl) ha
  | rd sel db =>
    obtain ⟨u, hexec, hu, -⟩ := exec_of_isRead (i := .rd sel db) rfl s
    cases h.symm.trans hexec
    exact ⟨fun _ => congrArg _ hu, fun _ => congrArg _ hu⟩

/-! ### Frozen after CLOSE (O15) -/

/-- In CLOSED every command but RD and RESET is refused, whatever its operands (R188). -/
theorem exec_of_closed {i : Instr} {s : State} {r : Session} (hs : s.facade = .active .closed r)
    (hread : isRead i = false) (hreset : i ≠ .reset) : exec i s = .next (raise .eTerminal s) := by
  cases i with
  | init w0 w1 w2 => exact exec_init_of_active w0 w1 w2 hs
  | frame xs => exact congrArg _ (whenLive_closed _ hs)
  | osframe ys => exact congrArg _ (whenLive_closed _ hs)
  | osfail => exact congrArg _ (whenLive_closed _ hs)
  | close => exact congrArg _ (whenLive_closed _ hs)
  | reset => exact absurd rfl hreset
  | rd sel db => cases hread

/-- In CLOSED no command but RESET changes the facade or the events (R160). -/
theorem exec_frozen_of_closed {i : Instr} {s : State} {r : Session} (hs : s.facade = .active .closed r)
    (hreset : i ≠ .reset) : ∃ t, exec i s = .next t ∧ t.facade = s.facade ∧ t.events = s.events := by
  cases hread : isRead i with
  | true => exact exec_of_isRead hread s
  | false => exact ⟨_, exec_of_closed hs hread hreset, rfl, rfl⟩

/-- Settles O15: a command that is not RESET leaves the CLOSED facade, so the next one finds it again. -/
theorem frozenAfterClose : Obligations.FrozenAfterClose := by
  intro is
  induction is with
  | nil =>
    intro s t r _ _ h
    cases h
    exact ⟨rfl, rfl⟩
  | cons i is ih =>
    intro s t r hs hall h
    obtain ⟨hi, his⟩ := List.forall_mem_cons.1 hall
    obtain ⟨u, hexec, hfac, hev⟩ := exec_frozen_of_closed hs hi
    simp only [execs, hexec] at h
    obtain ⟨htf, hte⟩ := ih u t r (hfac.trans hs) his h
    exact ⟨htf.trans hfac, hte.trans hev⟩

end Sys2Proof.Machine
end

section
/-! SUPPORT. The exceptions (60_exceptions.md): a command that raises leaves its code and nothing else (R186), CLOSED
and the states without a session refuse by the state alone (R188, R191), and every step answers (R198). -/

namespace Sys2Proof.Machine

/-! ### A refused command changes nothing (O10) -/

/-- An answer with an error is the refusal with that code (R186). -/
theorem RefusedOr.eq_raise {s t : State} {P : Facade → Prop} {a : Response} (h : RefusedOr s P t)
    (ha : t.responses = s.responses ++ [a]) (hne : a.code ≠ .ok) : t = raise a.code s := by
  cases h with
  | refused _ =>
    obtain rfl : ⟨_, false, 0⟩ = a := by simpa using ha
    rfl
  | accepted hu _ =>
    obtain rfl : ⟨.ok, false, 0⟩ = a := by simpa [hu] using ha
    exact absurd rfl hne

/-- Every command but RD is refused before it writes anything, or is accepted. -/
theorem exec_refusedOr {i : Instr} (hi : isRead i = false) (s : State) :
    ∃ t, exec i s = .next t ∧ RefusedOr s (fun _ => True) t := by
  cases i with
  | init w0 w1 w2 =>
    refine ⟨_, rfl, refusedOr_whenNoSession fun _ => ?_⟩
    split
    · rcases commitInit_cases w0 w1 w2 (Config.coef (initRate w0)) s with ⟨_, h⟩ | ⟨_, _, h⟩ <;> rw [h]
      · exact .refused nofun
      · exact .accepted rfl trivial
    · exact .refused nofun
  | frame xs =>
    exact ⟨_, rfl, refusedOr_whenLive fun _ _ _ _ => refusedOr_checkFrame (.accepted (by simp) trivial)⟩
  | osframe ys =>
    refine ⟨_, rfl, refusedOr_whenLive fun _ _ _ _ => refusedOr_checkFrame (.accepted ?_ trivial)⟩
    split <;> rfl
  | osfail =>
    refine ⟨_, rfl, refusedOr_whenLive fun _ _ _ _ => .accepted ?_ trivial⟩
    split <;> rfl
  | close =>
    refine ⟨_, rfl, refusedOr_whenLive fun _ _ _ _ => .accepted ?_ trivial⟩
    split <;> rfl
  | reset => exact ⟨_, rfl, .accepted rfl trivial⟩
  | rd sel db => cases hi

/-- Settles O10: an RD changes only the responses whatever it answers; any other command is refused before it writes
anything, or answers OK. -/
theorem refusedCommandChangesNothing : Obligations.RefusedCommandChangesNothing := by
  intro i s t a h ha hne
  cases hi : isRead i with
  | false =>
    obtain ⟨t', hexec, href⟩ := exec_refusedOr hi s
    cases h.symm.trans hexec
    exact href.eq_raise ha hne
  | true =>
    cases i with
    | rd sel db =>
      obtain ⟨⟨c, v, d⟩, hexec, hvalid, hdata⟩ := exec_rd_pushes sel db s
      cases h.symm.trans hexec
      obtain rfl : ⟨c, v, d⟩ = a := by simpa using ha
      obtain rfl : v = false := hvalid hne
      obtain rfl : d = 0 := hdata rfl
      rfl
    | _ => cases hi

/-! ### No lockup (O11) -/

/-- Whatever the machine holds, a step answers a next state. -/
theorem step_answers (s : State) : ∃ t, step s = .next t := by
  rcases step_cases s with ⟨_, h⟩ | ⟨_, _, _, h⟩ | ⟨i, rest, _, h⟩
  · exact ⟨_, h⟩
  · exact ⟨_, h⟩
  · obtain ⟨t, _, hexec, -⟩ := everyCommandAnswersOnce i (s.setCommands rest)
    exact ⟨t, h.trans hexec⟩

/-- Settles O11. -/
theorem noLockup : Obligations.NoLockup := ⟨step_answers, fun _ => ⟨_, rfl, rfl⟩⟩

/-! ### Refused by the state alone (O12, O13) -/

/-- Settles O12: `exec_of_closed` for the five that are refused; RD reads the session that CLOSED keeps. -/
theorem closedRefusesAllButRdAndReset : Obligations.ClosedRefusesAllButRdAndReset := by
  intro s r hs
  refine ⟨fun _ _ _ => ?init, fun _ => ?frame, fun _ => ?osframe, ?osfail, ?close,
    fun sel db hdb => ⟨_, _, exec_rd_active hs hdb rfl⟩, rfl⟩
  all_goals exact exec_of_closed hs rfl nofun

/-- Settles O13. -/
theorem outOfSequenceAnswersESeq : Obligations.OutOfSequenceAnswersESeq := by
  refine ⟨fun s hs => ⟨fun _ => ?frame, fun _ => ?osframe, ?osfail, ?close⟩, fun s ph r hs hp w0 w1 w2 => ?init⟩
  case init =>
    rw [exec_init_of_active w0 w1 w2 hs, if_neg hp]
    rfl
  all_goals exact congrArg _ (whenLive_uninitialized _ hs)

end Sys2Proof.Machine
end

section
/-! SUPPORT. The hardware reset and the state it leaves (70_reset_and_hazards.md R205 to R208): no session, a decoder at a
command boundary, and an RD that has only STATUS to show. -/

namespace Sys2Proof.Machine

/-! ### The hardware reset (O17) -/

@[simp] theorem hardwareReset_facade (s : State) : (hardwareReset s).facade = .uninitialized := rfl
@[simp] theorem hardwareReset_commands (s : State) : (hardwareReset s).commands = [] := rfl

/-- What the host sends joins the words that still wait, and the decoder reads from the first of them all. -/
theorem fetch_hostSend (ws : List W64) (s : State) : fetch (hostSend ws s) = decode (s.commands ++ ws) := rfl

/-- Settles O17: no word waits after the reset, so the decoder reads what the host sends from its first word. -/
theorem hardwareResetClearsTheSession : Obligations.HardwareResetClearsTheSession := by
  intro s ws
  refine ⟨hardwareReset_facade s, hardwareReset_commands s, ?boundary⟩
  case boundary => rw [fetch_hostSend, hardwareReset_commands, List.nil_append]

/-! ### RD without a session (O18) -/

/-- Without a session only STATUS is valid, and its word is zero (R33, R206). -/
theorem readSelector_uninitialized (sel : Selector) (db : Bool) :
    readSelector sel db .uninitialized = (decide (sel = .status), 0) := by
  by_cases h : sel = .status
  · rw [readSelector, if_pos h, decide_eq_true h, statusWordFields.1]
  · rw [readSelector, if_neg h, decide_eq_false h]

/-- RD with `DB` only on a peak selector answers what the selector reads, and nothing else changes (R163). -/
theorem exec_rd_legal {sel : Selector} {db : Bool} (s : State) (hdb : db = true → sel.isPeak = true) :
    exec (.rd sel db) s =
      .next (respond (readSelector sel db s.facade).1 (readSelector sel db s.facade).2 s) := by
  have hlegal : ¬ (db && !sel.isPeak) = true := by simpa using hdb
  rw [exec, execRd, if_neg hlegal]

/-- Settles O18: RD's answer is `readSelector`'s, and without a session that is zero, valid for STATUS alone. -/
theorem uninitializedReads : Obligations.UninitializedReads := by
  intro s sel db hs hdb
  have hread : readSelector sel db s.facade = (decide (sel = .status), 0) :=
    (congrArg _ hs).trans (readSelector_uninitialized sel db)
  rw [exec_rd_legal s hdb, hread]
  rfl

end Sys2Proof.Machine
end
